-- ==== Sys2Proof/Word.lean ====
section
/-! DEFINITION. The two word types of FCODEC: every value the spec treats as bits is 8 or 16 bits wide (20_memory R57). -/

namespace Sys2Proof

/-- R10: a byte is an 8-bit value, bit 0 the least significant. -/
abbrev Byte := BitVec 8

/-- A 16-bit field value (30_encoding R73). -/
abbrev Half := BitVec 16

end Sys2Proof
end

