-- ==== Sys2Proof/Machine/Bits.lean ====
section
/-! DEFINITION. Bit slices, byte order and integer meanings of words (00_scope R10 to R12). -/

namespace Sys2Proof

/-- R10: `v[15:8]`. -/
def hiByte (v : Half) : Byte := v.extractLsb' 8 8

/-- R10: `v[7:0]`. -/
def loByte (v : Half) : Byte := v.extractLsb' 0 8

/-- R10, R11: `hi ++ lo`, the byte at the lower offset more significant (20_memory R53, R54). -/
def joinBytes (hi lo : Byte) : Half := hi ++ lo

/-- R12: `zext(v)`, the natural number v denotes unsigned. -/
def zext {w : Nat} (v : BitVec w) : Int := (v.toNat : Int)

/-- R12: `sext_N(v)`: v if `v < 2^(N-1)`, and `v - 2^N` otherwise. -/
def sext {w : Nat} (v : BitVec w) : Int :=
  if 2 * v.toNat < 2 ^ w then (v.toNat : Int) else (v.toNat : Int) - 2 ^ w

/-- The `n` bytes of the number `w`, most significant first (R54). -/
def beBytes : Nat → Nat → List Byte
  | 0, _ => []
  | n + 1, w => beBytes n (w / 256) ++ [BitVec.ofNat 8 w]

end Sys2Proof
end

