-- ==== Sys2Proof/Config.lean ====
section
/-! DEFINITION. The constants FCODEC fixes (00_scope R5, R9), the names of its field groups and fields, and the raw
table a host offers as LAYOUT. LAYOUT itself and RPM_SIGNED are parameters of an instance (Machine/Fields.lean,
Machine/State.lean); N_LINKS is the number of instances of a System (Machine/System.lean). -/

namespace Sys2Proof

/-- R5: HEADER, the sentinel byte 0 of every frame. -/
abbrev Config.header : Byte := 0xAA#8

/-- R5: FRAME_LEN. -/
abbrev Config.frameLen : Nat := 16

/-- R5: PAYLOAD_LEN. -/
abbrev Config.payloadLen : Nat := 14

/-- R9: N_MAX, the largest input length a DEC or DECF command can present. -/
abbrev Config.nMax : Nat := 255

/-- R10: a whole frame, a sequence of 16 bytes indexed from 0. -/
abbrev Frame := Vector Byte 16

/-- R51: bytes 2 to 15 of a frame. -/
abbrev Payload := Vector Byte 14

/-- R21: the four field groups of the TRB, one per known kind. -/
inductive Group where
  | g0
  | g1
  | g4
  | g13
deriving DecidableEq, Repr

/-- R73: the eight fields. -/
inductive Field where
  | gear
  | rpm
  | iq
  | id
  | voltage
  | ctrlTemp
  | motorTemp
  | throttle
deriving DecidableEq, Repr

/-- R12, R73: how the bits of a field are read as an integer. -/
inductive Meaning where
  /-- the natural number the bits denote -/
  | zext
  /-- two's complement -/
  | sext
  /-- R7: two's complement if RPM_SIGNED, else the natural number -/
  | byRpmSigned
deriving DecidableEq, Repr

/-- R75: what a host offers as LAYOUT, one byte offset per field; it need not be well-formed. -/
structure LayoutTable where
  gear : Nat
  rpm : Nat
  iq : Nat
  id : Nat
  voltage : Nat
  ctrlTemp : Nat
  motorTemp : Nat
  throttle : Nat
deriving DecidableEq, Repr

end Sys2Proof
end

