-- ==== Sys2Proof/Machine/Fields.lean ====
section
/-! DEFINITION. The field table (30_encoding R72, R73), the kind dispatch and LAYOUT with its well-formedness
(30_encoding R74 to R76). -/

namespace Sys2Proof

/-- R21, R72: the kind byte that owns a field group. -/
def Group.kind : Group → Byte
  | .g0 => 0x00#8
  | .g1 => 0x01#8
  | .g4 => 0x04#8
  | .g13 => 0x0D#8

/-- R71, R72: the group a kind byte selects; `none` for each of the 252 unknown kinds. All 8 bits are compared (R124). -/
def groupOf (k : Byte) : Option Group :=
  if k = 0x00#8 then some .g0
  else if k = 0x01#8 then some .g1
  else if k = 0x04#8 then some .g4
  else if k = 0x0D#8 then some .g13
  else none

/-- R5, R71: is the kind in KNOWN_KINDS? -/
def knownKind (k : Byte) : Bool := (groupOf k).isSome

/-- The fields in the order of R73. -/
def Field.all : List Field :=
  [.gear, .rpm, .iq, .id, .voltage, .ctrlTemp, .motorTemp, .throttle]

/-- R73: the owner of a field. -/
def Field.owner : Field → Group
  | .gear => .g0
  | .rpm => .g0
  | .iq => .g0
  | .id => .g0
  | .voltage => .g1
  | .ctrlTemp => .g4
  | .motorTemp => .g13
  | .throttle => .g13

/-- R73: `width(F)` in bits. -/
abbrev Field.width : Field → Nat
  | .gear => 8
  | .rpm => 16
  | .iq => 16
  | .id => 16
  | .voltage => 16
  | .ctrlTemp => 8
  | .motorTemp => 8
  | .throttle => 16

/-- `width(F)/8`, the bytes a field occupies. -/
def Field.bytes (F : Field) : Nat := F.width / 8

/-- R73: the integer meaning of a field. -/
def Field.meaning : Field → Meaning
  | .gear => .zext
  | .rpm => .byRpmSigned
  | .iq => .sext
  | .id => .sext
  | .voltage => .zext
  | .ctrlTemp => .sext
  | .motorTemp => .sext
  | .throttle => .zext

/-- R101: the fields F with `owner(F) = kind`, in the order of R73; none if the kind is unknown. -/
def fieldsOf (k : Byte) : List Field :=
  Field.all.filter (fun F => F.owner.kind == k)

/-- R75: `off : Field → Nat`. -/
def LayoutTable.off (t : LayoutTable) : Field → Nat
  | .gear => t.gear
  | .rpm => t.rpm
  | .iq => t.iq
  | .id => t.id
  | .voltage => t.voltage
  | .ctrlTemp => t.ctrlTemp
  | .motorTemp => t.motorTemp
  | .throttle => t.throttle

/-- R76 (a): the field lies inside the payload, bytes 2 to 15. -/
def LayoutTable.inPayload (t : LayoutTable) (F : Field) : Bool :=
  decide (2 ≤ t.off F) && decide (t.off F + F.bytes ≤ 16)

/-- R76 (b): two fields occupy disjoint bytes. -/
def LayoutTable.apart (t : LayoutTable) (F G : Field) : Bool :=
  decide (t.off F + F.bytes ≤ t.off G) || decide (t.off G + G.bytes ≤ t.off F)

/-- R76: every field inside the payload, and fields of the same owner kind disjoint. -/
def LayoutTable.wf (t : LayoutTable) : Bool :=
  Field.all.all t.inPayload &&
  Field.all.all (fun F => Field.all.all (fun G => F == G || F.owner != G.owner || t.apart F G))

/-- R6, R76: the LAYOUT of a built instance, a table that is well-formed. FCODEC is defined only for such a table. -/
structure Layout where
  table : LayoutTable
  wf : table.wf = true
deriving DecidableEq, Repr

/-- `off(F)` of a built instance. -/
def Layout.off (L : Layout) (F : Field) : Nat := L.table.off F

/-- R74: the offsets of LAYOUT_DEFAULT. -/
def layoutDefaultTable : LayoutTable :=
  { gear := 2, rpm := 3, iq := 5, id := 7, voltage := 2, ctrlTemp := 2, motorTemp := 2, throttle := 3 }

/-- R74, R76: LAYOUT_DEFAULT is well-formed. -/
theorem layoutDefaultTable_wf : layoutDefaultTable.wf = true := by decide

/-- R74: LAYOUT_DEFAULT. -/
def layoutDefault : Layout := ⟨layoutDefaultTable, layoutDefaultTable_wf⟩

/-- R76 (a), of a built instance: no field stands before byte 2. -/
theorem Layout.two_le_off (L : Layout) (F : Field) : 2 ≤ L.off F := by
  have h := L.wf
  simp only [LayoutTable.wf, Bool.and_eq_true, List.all_eq_true] at h
  have := h.1 F (by cases F <;> decide)
  simp only [LayoutTable.inPayload, Bool.and_eq_true, decide_eq_true_eq] at this
  exact this.1

/-- R76 (a), of a built instance: no field reaches past byte 15. -/
theorem Layout.off_add_bytes_le (L : Layout) (F : Field) : L.off F + F.bytes ≤ 16 := by
  have h := L.wf
  simp only [LayoutTable.wf, Bool.and_eq_true, List.all_eq_true] at h
  have := h.1 F (by cases F <;> decide)
  simp only [LayoutTable.inPayload, Bool.and_eq_true, decide_eq_true_eq] at this
  exact this.2

/-- R76 (b), of a built instance: two fields of one owner share no byte. -/
theorem Layout.apart (L : Layout) (F G : Field) (hne : F ≠ G) (ho : F.owner = G.owner) :
    L.off F + F.bytes ≤ L.off G ∨ L.off G + G.bytes ≤ L.off F := by
  have h := L.wf
  simp only [LayoutTable.wf, Bool.and_eq_true, List.all_eq_true] at h
  have := h.2 F (by cases F <;> decide) G (by cases G <;> decide)
  simpa [hne, ho, LayoutTable.apart, Layout.off] using this

end Sys2Proof
end

