-- ==== Sys2Proof/Syntax.lean ====
section
/-! DEFINITION. The instructions of FCODEC: one constructor per row of spec/opcode_table.json. Format FRAME rows
(30_encoding R78) are the rows that a decode input selects; format CMD rows (30_encoding R82, R83) are commands. -/

namespace Sys2Proof

/-- R86: the value block V of an ENC command, all eight fields at the widths of R73. -/
structure ValueBlock where
  gear : Byte
  rpm : Half
  iq : Half
  id : Half
  voltage : Half
  ctrlTemp : Byte
  motorTemp : Byte
  throttle : Half
deriving DecidableEq, Repr

/-- The two row formats of the opcode table. -/
inductive Format where
  /-- dispatch on frame bytes 0 and 1 -/
  | frame
  /-- dispatch on command bytes -/
  | cmd
deriving DecidableEq, Repr

inductive Instr where
  /-- FRAME.INVALID_LENGTH (R122): a decode input whose length is not 16. -/
  | frameInvalidLength (bytes : List Byte)
  /-- FRAME.BAD_HEADER (R123): 16 bytes, byte 0 is not 0xAA; `rest` is bytes 1 to 15. -/
  | frameBadHeader (header : Byte) (rest : Vector Byte 15)
  /-- FRAME.K0 (R125): `AA 00` and the payload. -/
  | frameK0 (payload : Payload)
  /-- FRAME.K1 (R126): `AA 01` and the payload. -/
  | frameK1 (payload : Payload)
  /-- FRAME.K4 (R127): `AA 04` and the payload. -/
  | frameK4 (payload : Payload)
  /-- FRAME.K13 (R128): `AA 0D` and the payload. -/
  | frameK13 (payload : Payload)
  /-- FRAME.UNKNOWN (R130): `AA kind` with an unknown kind, and the payload. -/
  | frameUnknown (kind : Byte) (payload : Payload)
  /-- ENC.K0 (R103). -/
  | encK0 (v : ValueBlock)
  /-- ENC.K1 (R104). -/
  | encK1 (v : ValueBlock)
  /-- ENC.K4 (R105). -/
  | encK4 (v : ValueBlock)
  /-- ENC.K13 (R106). -/
  | encK13 (v : ValueBlock)
  /-- ENC.UNKNOWN (R107). -/
  | encUnknown (kind : Byte) (v : ValueBlock)
  /-- DEC (R120): the decode input, at most 255 bytes. -/
  | dec (input : List Byte)
  /-- DECF (R150): the decode input of a DECF that none of the four refinements below matches. -/
  | decf (input : List Byte)
  /-- DECF.K0 (R152): `03 10 AA 00` and the payload. -/
  | decfK0 (payload : Payload)
  /-- DECF.K1 (R152): `03 10 AA 01` and the payload. -/
  | decfK1 (payload : Payload)
  /-- DECF.K4 (R152): `03 10 AA 04` and the payload. -/
  | decfK4 (payload : Payload)
  /-- DECF.K13 (R152): `03 10 AA 0D` and the payload. -/
  | decfK13 (payload : Payload)
  /-- RDT (R155). -/
  | rdt
  /-- CLR (R157). -/
  | clr
  /-- WRCTL (R160): the byte written. -/
  | wrctl (value : Byte)
  /-- RDCTL (R162). -/
  | rdctl
  /-- ILLEGAL (R184): an opcode 0x00 or 0x08 to 0xFF, alone. -/
  | illegal (opcode : Byte)
deriving DecidableEq, Repr

/-- The "format" column of the opcode table. -/
def Instr.format : Instr → Format
  | .frameInvalidLength _ => .frame
  | .frameBadHeader _ _ => .frame
  | .frameK0 _ => .frame
  | .frameK1 _ => .frame
  | .frameK4 _ => .frame
  | .frameK13 _ => .frame
  | .frameUnknown _ _ => .frame
  | .encK0 _ => .cmd
  | .encK1 _ => .cmd
  | .encK4 _ => .cmd
  | .encK13 _ => .cmd
  | .encUnknown _ _ => .cmd
  | .dec _ => .cmd
  | .decf _ => .cmd
  | .decfK0 _ => .cmd
  | .decfK1 _ => .cmd
  | .decfK4 _ => .cmd
  | .decfK13 _ => .cmd
  | .rdt => .cmd
  | .clr => .cmd
  | .wrctl _ => .cmd
  | .rdctl => .cmd
  | .illegal _ => .cmd

end Sys2Proof
end

