-- ==== Sys2Proof/WellFormed.lean ====
section
/-! DEFINITION. Which instruction terms stand for a row of the opcode table: the checks the types do not carry. -/

namespace Sys2Proof

/-- R82, R184: an opcode no command has. -/
def illegalOpcode (op : Byte) : Bool := op = 0x00#8 || decide (8 ≤ op.toNat)

/-- R151, R152: a decode input that a DECF.K* row matches: 16 bytes, header 0xAA, known kind. -/
def knownFrame : List Byte → Bool
  | h :: k :: rest => h == Config.header && knownKind k && rest.length == Config.payloadLen
  | _ => false

/-- One check per row that needs one; the other rows admit every operand. -/
def Instr.wf : Instr → Bool
  | .frameInvalidLength bytes => bytes.length != Config.frameLen
  | .frameBadHeader header _ => header != Config.header
  | .frameK0 _ => true
  | .frameK1 _ => true
  | .frameK4 _ => true
  | .frameK13 _ => true
  | .frameUnknown kind _ => !knownKind kind
  | .encK0 _ => true
  | .encK1 _ => true
  | .encK4 _ => true
  | .encK13 _ => true
  | .encUnknown kind _ => !knownKind kind
  | .dec input => decide (input.length ≤ Config.nMax)
  | .decf input => decide (input.length ≤ Config.nMax) && !knownFrame input
  | .decfK0 _ => true
  | .decfK1 _ => true
  | .decfK4 _ => true
  | .decfK13 _ => true
  | .rdt => true
  | .clr => true
  | .wrctl _ => true
  | .rdctl => true
  | .illegal opcode => illegalOpcode opcode

end Sys2Proof
end

