-- ==== Sys2Proof/Decode.lean ====
section
/-! DEFINITION. The two decoders, total on any bytes (30_encoding R78 for a decode input, R81 to R89 for a command),
the encoder, and the words of the opcode table. -/

namespace Sys2Proof

/-- A frame from its bytes. -/
def frameOfList (b : List Byte) (h : b.length = 16) : Frame := ⟨b.toArray, by simpa using h⟩

/-- A payload from its bytes. -/
def payloadOfList (b : List Byte) (h : b.length = 14) : Payload := ⟨b.toArray, by simpa using h⟩

/-- Bytes 1 to 15 of a 16-byte input whose header is bad. -/
def tailOfList (b : List Byte) (h : b.length = 15) : Vector Byte 15 := ⟨b.toArray, by simpa using h⟩

/-- R78: the FRAME row a decode input selects. The length is checked first, then the header, then the four kind rows;
the unknown-kind row comes last. -/
def decodeFrame (b : List Byte) : Instr :=
  match b with
  | h :: k :: p =>
    if hp : p.length = 14 then
      if h = Config.header then
        match groupOf k with
        | some .g0 => .frameK0 (payloadOfList p hp)
        | some .g1 => .frameK1 (payloadOfList p hp)
        | some .g4 => .frameK4 (payloadOfList p hp)
        | some .g13 => .frameK13 (payloadOfList p hp)
        | none => .frameUnknown k (payloadOfList p hp)
      else .frameBadHeader h (tailOfList (k :: p) (by simp [hp]))
    else .frameInvalidLength b
  | _ => .frameInvalidLength b

/-- R86: the value block from the 13 operand bytes, with the bytes after them. -/
def takeValueBlock : List Byte → Option (ValueBlock × List Byte)
  | g :: r1 :: r0 :: q1 :: q0 :: d1 :: d0 :: v1 :: v0 :: ct :: mt :: t1 :: t0 :: rest =>
    some ({ gear := g, rpm := joinBytes r1 r0, iq := joinBytes q1 q0, id := joinBytes d1 d0,
            voltage := joinBytes v1 v0, ctrlTemp := ct, motorTemp := mt, throttle := joinBytes t1 t0 }, rest)
  | _ => none

/-- R83: the ENC row of a kind byte. -/
def encRow (k : Byte) (v : ValueBlock) : Instr :=
  match groupOf k with
  | some .g0 => .encK0 v
  | some .g1 => .encK1 v
  | some .g4 => .encK4 v
  | some .g13 => .encK13 v
  | none => .encUnknown k v

/-- R78, R152: the DECF row of a decode input: a fold row for a known-kind frame, else DECF itself. -/
def decfRow (b : List Byte) : Instr :=
  match decodeFrame b with
  | .frameK0 p => .decfK0 p
  | .frameK1 p => .decfK1 p
  | .frameK4 p => .decfK4 p
  | .frameK13 p => .decfK13 p
  | _ => .decf b

/-- R84: the length byte n and the n input bytes, with the bytes after them. -/
def takeInput : List Byte → Option (List Byte × List Byte)
  | n :: rest =>
    if n.toNat ≤ rest.length then some (rest.take n.toNat, rest.drop n.toNat) else none
  | [] => none

/-- R89: why a byte sequence does not begin with a whole command. -/
inductive Incomplete where
  /-- no byte at all -/
  | noOpcode
  /-- the opcode's operands are not all there -/
  | operandsMissing (opcode : Byte)
deriving DecidableEq, Repr

/-- R81, R82: the command at the front of a byte sequence and the bytes after it. An illegal opcode is a whole command of
one byte (R183, R184), so the only rejection is an incomplete sequence (R89). -/
def decodeCommand : List Byte → Except Incomplete (Instr × List Byte)
  | [] => .error .noOpcode
  | op :: rest =>
    if op = 0x01#8 then
      match rest with
      | k :: vs =>
        match takeValueBlock vs with
        | some (v, rest') => .ok (encRow k v, rest')
        | none => .error (.operandsMissing op)
      | [] => .error (.operandsMissing op)
    else if op = 0x02#8 then
      match takeInput rest with
      | some (b, rest') => .ok (.dec b, rest')
      | none => .error (.operandsMissing op)
    else if op = 0x03#8 then
      match takeInput rest with
      | some (b, rest') => .ok (decfRow b, rest')
      | none => .error (.operandsMissing op)
    else if op = 0x04#8 then .ok (.rdt, rest)
    else if op = 0x05#8 then .ok (.clr, rest)
    else if op = 0x06#8 then
      match rest with
      | v :: rest' => .ok (.wrctl v, rest')
      | [] => .error (.operandsMissing op)
    else if op = 0x07#8 then .ok (.rdctl, rest)
    else .ok (.illegal op, rest)

/-- R86: the 13 bytes of a value block, big-endian. -/
def ValueBlock.toBytes (v : ValueBlock) : List Byte :=
  [v.gear, hiByte v.rpm, loByte v.rpm, hiByte v.iq, loByte v.iq, hiByte v.id, loByte v.id,
   hiByte v.voltage, loByte v.voltage, v.ctrlTemp, v.motorTemp, hiByte v.throttle, loByte v.throttle]

/-- R84: n and the n bytes of a decode input. -/
def inputBytes (b : List Byte) : List Byte := BitVec.ofNat 8 b.length :: b

/-- The bytes of an instruction: of a FRAME row the decode input itself (R70), of a CMD row the command (R82 to R88). -/
def encode : Instr → List Byte
  | .frameInvalidLength bytes => bytes
  | .frameBadHeader header rest => header :: rest.toList
  | .frameK0 p => 0xAA#8 :: 0x00#8 :: p.toList
  | .frameK1 p => 0xAA#8 :: 0x01#8 :: p.toList
  | .frameK4 p => 0xAA#8 :: 0x04#8 :: p.toList
  | .frameK13 p => 0xAA#8 :: 0x0D#8 :: p.toList
  | .frameUnknown kind p => 0xAA#8 :: kind :: p.toList
  | .encK0 v => 0x01#8 :: 0x00#8 :: v.toBytes
  | .encK1 v => 0x01#8 :: 0x01#8 :: v.toBytes
  | .encK4 v => 0x01#8 :: 0x04#8 :: v.toBytes
  | .encK13 v => 0x01#8 :: 0x0D#8 :: v.toBytes
  | .encUnknown kind v => 0x01#8 :: kind :: v.toBytes
  | .dec b => 0x02#8 :: inputBytes b
  | .decf b => 0x03#8 :: inputBytes b
  | .decfK0 p => 0x03#8 :: 0x10#8 :: 0xAA#8 :: 0x00#8 :: p.toList
  | .decfK1 p => 0x03#8 :: 0x10#8 :: 0xAA#8 :: 0x01#8 :: p.toList
  | .decfK4 p => 0x03#8 :: 0x10#8 :: 0xAA#8 :: 0x04#8 :: p.toList
  | .decfK13 p => 0x03#8 :: 0x10#8 :: 0xAA#8 :: 0x0D#8 :: p.toList
  | .rdt => [0x04#8]
  | .clr => [0x05#8]
  | .wrctl v => [0x06#8, v]
  | .rdctl => [0x07#8]
  | .illegal op => [op]

/-- The bytes of a word of the opcode table. A row's match word is the first bytes concatenated, the first byte most
significant (`c[0] ++ c[1]`, R78, R83), so the word is laid out most significant byte first, and every byte after it is
zero: 255 of them, the most operand bytes a one-byte length can ask for. (DEDUCED, log 2) -/
def tableBytes (nbits w : Nat) : List Byte := beBytes (nbits / 8) w ++ List.replicate 255 0

/-- Is a table word one of format FRAME? FRAME rows are matched over the 16 bits `b[0] ++ b[1]` (R78); the only CMD rows
of that width begin with a command opcode (R83). (DEDUCED, log 2) -/
def tableWordIsFrame (nbits w : Nat) : Bool :=
  nbits == 16 && illegalOpcode (BitVec.ofNat 8 (w / 256))

/-- The command bytes that put a table word on the command port: the command itself, exactly; a FRAME row's frame is
carried by the DEC command of that frame, the command whose result the row selects (R120; log 1). -/
def tableCommand (nbits w : Nat) : List Byte :=
  if tableWordIsFrame nbits w then 0x02#8 :: 0x10#8 :: (tableBytes nbits w).take 16
  else
    match decodeCommand (tableBytes nbits w) with
    | .ok (_, rest) => (tableBytes nbits w).take ((tableBytes nbits w).length - rest.length)
    | .error _ => []

/-- The instruction the decoders read from a word of the opcode table. -/
def decodeTableWord (nbits w : Nat) : Option Instr :=
  if tableWordIsFrame nbits w then some (decodeFrame ((tableBytes nbits w).take 16))
  else
    match decodeCommand (tableBytes nbits w) with
    | .ok (i, _) => some i
    | .error _ => none

end Sys2Proof
end

