-- ==== Sys2Proof/Machine/State.lean ====
section
/-! DEFINITION. The state of one FCODEC instance (10_state R20): the telemetry register bank, the control register, the
configuration it was built with, and the traffic of its ports (R34); the reasons a step or a read can stop; reset. -/

namespace Sys2Proof.Machine

/-- R180: the five status codes. -/
inductive Status where
  | ok
  | okUnknownKind
  | errWrongLength
  | errBadHeader
  | errIllegalCmd
deriving DecidableEq, Repr

/-- R131: the result of Decode. -/
inductive DecodeResult where
  | known0 (gear : Byte) (rpm iq id : Half)
  | known1 (voltage : Half)
  | known4 (ctrlTemp : Byte)
  | known13 (motorTemp : Byte) (throttle : Half)
  | unknown (kind : Byte) (payload : Payload)
  | errWrongLength
  | errBadHeader
deriving DecidableEq, Repr

/-- R155, R156: the value block of an RDT response; a field whose group is invalid has no value. -/
structure Snapshot where
  gear : Option Byte
  rpm : Option Half
  iq : Option Half
  id : Option Half
  voltage : Option Half
  ctrlTemp : Option Byte
  motorTemp : Option Byte
  throttle : Option Half
deriving DecidableEq, Repr

/-- R35: the data of a response, one case per shape. -/
inductive RespData where
  /-- every error status, CLR and WRCTL -/
  | empty
  /-- ENC -/
  | frame (f : Frame)
  /-- DEC or DECF, status OK, kind 0 -/
  | known0 (gear : Byte) (rpm iq id : Half)
  /-- DEC or DECF, status OK, kind 1 -/
  | known1 (voltage : Half)
  /-- DEC or DECF, status OK, kind 4 -/
  | known4 (ctrlTemp : Byte)
  /-- DEC or DECF, status OK, kind 13 -/
  | known13 (motorTemp : Byte) (throttle : Half)
  /-- DEC or DECF, status OK_UNKNOWN_KIND -/
  | unknown (kind : Byte) (payload : Payload)
  /-- RDT: the valid mask and V -/
  | telemetry (mask : Byte) (v : Snapshot)
  /-- RDCTL -/
  | ctrl (value : Byte)
deriving DecidableEq, Repr

/-- R35: the response of a command. -/
structure Response where
  status : Status
  folded : Bool
  data : RespData
deriving DecidableEq, Repr

/-- R21 to R23: the telemetry register bank. A data field that holds no value is `none` (R23). -/
structure TRB where
  valid0 : Bool
  valid1 : Bool
  valid4 : Bool
  valid13 : Bool
  gear : Option Byte
  rpm : Option Half
  iq : Option Half
  id : Option Half
  voltage : Option Half
  ctrlTemp : Option Byte
  motorTemp : Option Byte
  throttle : Option Half
deriving DecidableEq, Repr

/-- R28: every valid flag 0 and every data field without a value. -/
def TRB.reset : TRB :=
  { valid0 := false, valid1 := false, valid4 := false, valid13 := false,
    gear := none, rpm := none, iq := none, id := none,
    voltage := none, ctrlTemp := none, motorTemp := none, throttle := none }

/-- R30, R32: the control register; a model keeps only FOLD_EN. -/
structure Ctrl where
  foldEn : Bool
deriving DecidableEq, Repr

/-- R33: CTRL is 0x00 after reset. -/
def Ctrl.reset : Ctrl := { foldEn := false }

/-- R20: the configuration fixed when the instance is built (log 3). -/
structure InstanceConfig where
  layout : Layout
  rpmSigned : Bool
deriving DecidableEq, Repr

/-- R36: what a host can do to the block. -/
inductive HostEvent where
  /-- H1: bytes presented on the command port; the host owes exactly one whole command, and no second one before the
  response -/
  | present (bytes : List Byte)
  /-- H2: the reset input is asserted -/
  | reset
deriving DecidableEq, Repr

/-- R20, R34: one FCODEC instance with the traffic of its ports. -/
structure State where
  config : InstanceConfig
  trb : TRB
  ctrl : Ctrl
  /-- the host's moves to come, oldest first: each is made when the one before it is over, a command when the command
  before it has been answered (R34, R36, R205; log 6) -/
  input : List HostEvent
  /-- responses returned so far, oldest first -/
  responses : List Response
deriving DecidableEq, Repr

/-- Why a read stops. -/
inductive Fault where
  /-- R23, R185 (3): a consumer uses a TRB field whose group has valid = 0. Raised by `consumerRead` alone; no step raises
  it. Safe: the spec itself makes this read a fault. -/
  | invalidGroupRead (field : Field)
deriving DecidableEq, Repr

/-- Why there is no step. -/
inductive Refusal where
  /-- An instruction that has no meaning yet: none in this model. Safe. -/
  | notModelled (mnemonic : String)
  /-- R76, R185 (1): an instance is built with an ill-formed LAYOUT. Raised by `State.build`. Safe. -/
  | illFormedLayout
  /-- R89, R185 (2): the bytes presented do not begin with a whole command. Raised by `step`. Safe for the block; log 8
  says what it leaves unsaid about a host that breaks its duty. -/
  | incompleteCommand
  /-- R36, R205, 92_eei_decisions D25: the host presents a second command before the response to the first, as bytes that go
  on after a whole command (raised by `step`) or while a command is unanswered (raised by `State.present`). The spec gives
  such a host no move. Safe for the block; log 8. -/
  | commandOverlap
  /-- The host has presented nothing, so there is no command to take. Raised by `step`. Safe (log 7). -/
  | noCommand
deriving DecidableEq, Repr

/-- What a step, or an operation that can stop, answers. -/
abbrev Result := Host.Outcome State Fault Refusal

/-- R200, R28, R33: an instance right after reset, nothing presented and nothing answered. -/
def State.ofConfig (c : InstanceConfig) : State :=
  { config := c, trb := TRB.reset, ctrl := Ctrl.reset, input := [], responses := [] }

/-- R200: the machine right after reset, built with LAYOUT_DEFAULT (R6; log 4) and RPM_SIGNED = false (log 5). -/
def State.reset : State := State.ofConfig { layout := layoutDefault, rpmSigned := false }

/-- The state with another register bank. -/
def State.withTrb (s : State) (t : TRB) : State := { s with trb := t }

/-- The state with another control register. -/
def State.withCtrl (s : State) (c : Ctrl) : State := { s with ctrl := c }

/-- The state with other host events still to take. -/
def State.withInput (s : State) (es : List HostEvent) : State := { s with input := es }

/-- The state with one more response returned. -/
def State.withResponse (s : State) (r : Response) : State := { s with responses := s.responses ++ [r] }

end Sys2Proof.Machine
end

