-- ==== Sys2Proof/Machine/Operands.lean ====
section
/-! DEFINITION. Operands: the frame's bytes (00_scope R11), field values in frames, value blocks and the register bank
(30_encoding R77, R86), and what the bits of a field mean to a reader (00_scope R12, 41_decode R132). -/

namespace Sys2Proof.Machine

/-- R11: `MemRead(b, o, 1)`. -/
def memRead1 (b : Frame) (o : Nat) (h : o < 16) : Byte := b[o]

/-- R11: `MemRead(b, o, 2)`, the high byte at the lower offset. -/
def memRead2 (b : Frame) (o : Nat) (h : o + 1 < 16) : Half :=
  joinBytes (memRead1 b o (by omega)) (memRead1 b (o + 1) h)

/-- R11: `MemWrite(b, o, 1, v)`. -/
def memWrite1 (b : Frame) (o : Nat) (v : Byte) (h : o < 16) : Frame := b.set o v h

/-- R11: `MemWrite(b, o, 2, v)`, the high byte at the lower offset. -/
def memWrite2 (b : Frame) (o : Nat) (v : Half) (h : o + 1 < 16) : Frame :=
  memWrite1 (memWrite1 b o (hiByte v) (by omega)) (o + 1) (loByte v) h

/-- R76 (a): a one-byte field lies inside the frame. -/
theorem off_lt (L : Layout) (F : Field) (h : F.bytes = 1) : L.off F < 16 := by
  have := L.off_add_bytes_le F
  omega

/-- R76 (a): both bytes of a two-byte field lie inside the frame. -/
theorem off_succ_lt (L : Layout) (F : Field) (h : F.bytes = 2) : L.off F + 1 < 16 := by
  have := L.off_add_bytes_le F
  omega

/-- The operand F of a value block (R86). -/
def getField (v : ValueBlock) : (F : Field) → BitVec F.width
  | .gear => v.gear
  | .rpm => v.rpm
  | .iq => v.iq
  | .id => v.id
  | .voltage => v.voltage
  | .ctrlTemp => v.ctrlTemp
  | .motorTemp => v.motorTemp
  | .throttle => v.throttle

/-- R77: `MemRead(b, off(F), width(F)/8)`. -/
def readField (L : Layout) (b : Frame) : (F : Field) → BitVec F.width
  | .gear => memRead1 b (L.off .gear) (off_lt L .gear rfl)
  | .rpm => memRead2 b (L.off .rpm) (off_succ_lt L .rpm rfl)
  | .iq => memRead2 b (L.off .iq) (off_succ_lt L .iq rfl)
  | .id => memRead2 b (L.off .id) (off_succ_lt L .id rfl)
  | .voltage => memRead2 b (L.off .voltage) (off_succ_lt L .voltage rfl)
  | .ctrlTemp => memRead1 b (L.off .ctrlTemp) (off_lt L .ctrlTemp rfl)
  | .motorTemp => memRead1 b (L.off .motorTemp) (off_lt L .motorTemp rfl)
  | .throttle => memRead2 b (L.off .throttle) (off_succ_lt L .throttle rfl)

/-- R101: `MemWrite(f, off(F), width(F)/8, V.F)`. -/
def writeField (L : Layout) (v : ValueBlock) (f : Frame) : Field → Frame
  | .gear => memWrite1 f (L.off .gear) v.gear (off_lt L .gear rfl)
  | .rpm => memWrite2 f (L.off .rpm) v.rpm (off_succ_lt L .rpm rfl)
  | .iq => memWrite2 f (L.off .iq) v.iq (off_succ_lt L .iq rfl)
  | .id => memWrite2 f (L.off .id) v.id (off_succ_lt L .id rfl)
  | .voltage => memWrite2 f (L.off .voltage) v.voltage (off_succ_lt L .voltage rfl)
  | .ctrlTemp => memWrite1 f (L.off .ctrlTemp) v.ctrlTemp (off_lt L .ctrlTemp rfl)
  | .motorTemp => memWrite1 f (L.off .motorTemp) v.motorTemp (off_lt L .motorTemp rfl)
  | .throttle => memWrite2 f (L.off .throttle) v.throttle (off_succ_lt L .throttle rfl)

/-- A frame from its header, its kind and its payload (R51). -/
def frameOf (header kind : Byte) (p : Payload) : Frame :=
  frameOfList (header :: kind :: p.toList) (by simp)

/-- R130: `b[2..15]`. -/
def payloadOf (f : Frame) : Payload := payloadOfList (f.toList.drop 2) (by simp)

/-- R101, R102: the frame before any field is written: header, kind, and zeros. -/
def blankFrame (kind : Byte) : Frame :=
  ((Vector.replicate 16 (0x00#8 : Byte)).set 0 Config.header).set 1 kind

/-- R23: the valid flag of a group. -/
def groupValid (t : TRB) : Group → Bool
  | .g0 => t.valid0
  | .g1 => t.valid1
  | .g4 => t.valid4
  | .g13 => t.valid13

/-- The data field F of the bank as it is held. -/
def bankField (t : TRB) : (F : Field) → Option (BitVec F.width)
  | .gear => t.gear
  | .rpm => t.rpm
  | .iq => t.iq
  | .id => t.id
  | .voltage => t.voltage
  | .ctrlTemp => t.ctrlTemp
  | .motorTemp => t.motorTemp
  | .throttle => t.throttle

/-- R23, R156: the value of a bank field; while its group's valid flag is 0 it has none. -/
def bankValue (t : TRB) (F : Field) : Option (BitVec F.width) :=
  if groupValid t F.owner then bankField t F else none

/-- R12, R73: the integer a field's bits mean, RPM_SIGNED deciding for rpm alone. -/
def fieldInt (rpmSigned : Bool) (F : Field) (v : BitVec F.width) : Int :=
  match F.meaning with
  | .zext => zext v
  | .sext => sext v
  | .byRpmSigned => if rpmSigned then sext v else zext v

/-- R132: the exact physical value of a field, by R73's physical meaning: volts and amperes are scaled, the others are the
integer itself. Gear and throttle carry no unit. -/
def fieldPhysical (rpmSigned : Bool) (F : Field) (v : BitVec F.width) : Rat :=
  match F with
  | .voltage => (fieldInt rpmSigned .voltage v : Rat) / 10
  | .iq => (fieldInt rpmSigned .iq v : Rat) / 100
  | .id => (fieldInt rpmSigned .id v : Rat) / 100
  | .gear => (fieldInt rpmSigned .gear v : Rat)
  | .rpm => (fieldInt rpmSigned .rpm v : Rat)
  | .ctrlTemp => (fieldInt rpmSigned .ctrlTemp v : Rat)
  | .motorTemp => (fieldInt rpmSigned .motorTemp v : Rat)
  | .throttle => (fieldInt rpmSigned .throttle v : Rat)

/-- R85: is the field read as a signed integer? -/
def fieldSigned (rpmSigned : Bool) (F : Field) : Bool :=
  match F.meaning with
  | .zext => false
  | .sext => true
  | .byRpmSigned => rpmSigned

/-- R85: the smallest integer a front end accepts for a field. -/
def fieldMin (rpmSigned : Bool) (F : Field) : Int :=
  if fieldSigned rpmSigned F then -(2 ^ (F.width - 1)) else 0

/-- R85: the largest integer a front end accepts for a field. -/
def fieldMax (rpmSigned : Bool) (F : Field) : Int :=
  if fieldSigned rpmSigned F then 2 ^ (F.width - 1) - 1 else 2 ^ F.width - 1

/-- R85: the front end's value of an integer: its pattern at the field's width, or nothing for a value outside the
field's range; it never wraps or truncates. -/
def fieldOfInt (rpmSigned : Bool) (F : Field) (z : Int) : Option (BitVec F.width) :=
  if fieldMin rpmSigned F ≤ z ∧ z ≤ fieldMax rpmSigned F then some (BitVec.ofInt F.width z) else none

/-- R85, R90: the pattern a written integer spells. RPM_SIGNED affects no encoding (R7), so rpm takes the spellings of both
of its readings, as the vectors E3 and E4 of 95_test_vectors do; for every other field the two are one (log 15). -/
def spelledValue (F : Field) (z : Int) : Option (BitVec F.width) :=
  match fieldOfInt false F z with
  | some v => some v
  | none => fieldOfInt true F z

end Sys2Proof.Machine
end

