-- ==== Sys2Proof/Machine/Flags.lean ====
section
/-! DEFINITION. Status codes, the flags byte, the valid mask, the view of CTRL as a byte, and the bytes of a response
(60_exceptions R180, R181; 30_encoding R87; 10_state R30 to R32). FCODEC has no condition flags (10_state R29). -/

namespace Sys2Proof.Machine

/-- R180: the numeric code of a status. -/
def Status.code : Status → Byte
  | .ok => 0x00#8
  | .okUnknownKind => 0x01#8
  | .errWrongLength => 0x02#8
  | .errBadHeader => 0x03#8
  | .errIllegalCmd => 0x04#8

/-- R181: `status_of(r)`. -/
def statusOf : DecodeResult → Status
  | .known0 _ _ _ _ => .ok
  | .known1 _ => .ok
  | .known4 _ => .ok
  | .known13 _ _ => .ok
  | .unknown _ _ => .okUnknownKind
  | .errWrongLength => .errWrongLength
  | .errBadHeader => .errBadHeader

/-- R35, R181: the response data of a decode result; an error carries none. -/
def dataOf : DecodeResult → RespData
  | .known0 gear rpm iq id => .known0 gear rpm iq id
  | .known1 voltage => .known1 voltage
  | .known4 ctrlTemp => .known4 ctrlTemp
  | .known13 motorTemp throttle => .known13 motorTemp throttle
  | .unknown kind payload => .unknown kind payload
  | .errWrongLength => .empty
  | .errBadHeader => .empty

/-- R151 (b): is the result Known_k? -/
def isKnown : DecodeResult → Bool
  | .known0 _ _ _ _ => true
  | .known1 _ => true
  | .known4 _ => true
  | .known13 _ _ => true
  | .unknown _ _ => false
  | .errWrongLength => false
  | .errBadHeader => false

/-- The response of a decode result (R120, R150). -/
def responseOf (r : DecodeResult) (folded : Bool) : Response :=
  { status := statusOf r, folded := folded, data := dataOf r }

/-- R155: the valid mask `0000 ++ valid_13 ++ valid_4 ++ valid_1 ++ valid_0`. -/
def validMask (t : TRB) : Byte :=
  0b0000#4 ++ BitVec.ofBool t.valid13 ++ BitVec.ofBool t.valid4 ++ BitVec.ofBool t.valid1 ++ BitVec.ofBool t.valid0

/-- R30: the CTRL byte; bits 7:1 read as 0. -/
def Ctrl.toByte (c : Ctrl) : Byte := 0b0000000#7 ++ BitVec.ofBool c.foldEn

/-- R32: `CTRL <- 0b0000000 ++ v[0:0]`; writes to bits 7:1 are ignored. -/
def Ctrl.ofByte (v : Byte) : Ctrl := { foldEn := v.getLsbD 0 }

/-- R87: `r[1]`, bit 0 FOLDED and bits 7:1 zero. -/
def flagsByte (folded : Bool) : Byte := 0b0000000#7 ++ BitVec.ofBool folded

/-- A byte that has a value, in a response. -/
def byte1 (v : Byte) : List (Option Byte) := [some v]

/-- A 16-bit value in a response, big-endian (R54). -/
def byte2 (v : Half) : List (Option Byte) := [some (hiByte v), some (loByte v)]

/-- A snapshot's 8-bit field in a response: a byte without a value if it has none (R87). -/
def snap1 : Option Byte → List (Option Byte)
  | some v => byte1 v
  | none => [none]

/-- A snapshot's 16-bit field in a response: two bytes without a value if it has none (R87). -/
def snap2 : Option Half → List (Option Byte)
  | some v => byte2 v
  | none => [none, none]

/-- R86, R87: V of an RDT response. -/
def Snapshot.bytes (v : Snapshot) : List (Option Byte) :=
  snap1 v.gear ++ snap2 v.rpm ++ snap2 v.iq ++ snap2 v.id ++ snap2 v.voltage ++ snap1 v.ctrlTemp ++
    snap1 v.motorTemp ++ snap2 v.throttle

/-- R87: the data bytes `r[2..]`. -/
def RespData.bytes : RespData → List (Option Byte)
  | .empty => []
  | .frame f => f.toList.map some
  | .known0 gear rpm iq id => byte1 0x00#8 ++ byte1 gear ++ byte2 rpm ++ byte2 iq ++ byte2 id
  | .known1 voltage => byte1 0x01#8 ++ byte2 voltage
  | .known4 ctrlTemp => byte1 0x04#8 ++ byte1 ctrlTemp
  | .known13 motorTemp throttle => byte1 0x0D#8 ++ byte1 motorTemp ++ byte2 throttle
  | .unknown kind payload => byte1 kind ++ payload.toList.map some
  | .telemetry mask v => byte1 mask ++ v.bytes
  | .ctrl value => byte1 value

/-- R87: the bytes of a response; a byte that has no value is `none`. -/
def Response.bytes (r : Response) : List (Option Byte) :=
  some r.status.code :: some (flagsByte r.folded) :: r.data.bytes

end Sys2Proof.Machine
end

