-- ==== Sys2Proof/Machine/Ops.lean ====
section
/-! DEFINITION. The shared operations every meaning is made of: returning a response, raising an error, Encode, Decode,
folding, clearing and reading the register bank, a consumer's read, resetting and building an instance, and taking the
next host event. FCODEC has no trap and no trap return (60_exceptions R186, R187), so an error is a response and there is
no exception entry to write. -/

namespace Sys2Proof.Machine

/-- R13, R35: `return r` ends a command with one response. -/
def respond (s : State) (r : Response) : Result := .next (s.withResponse r)

/-- R13, R186: `raise E` ends a command with an error response; it writes nothing else. -/
def raiseError (s : State) (e : Status) : Result := respond s { status := e, folded := false, data := .empty }

/-- A response of status OK that folded nothing. -/
def okResponse (d : RespData) : Response := { status := .ok, folded := false, data := d }

/-- R101: Encode. For each field the kind owns, one big-endian write into the blank frame. -/
def encodeFrame (L : Layout) (kind : Byte) (v : ValueBlock) : Frame :=
  (fieldsOf kind).foldl (writeField L v) (blankFrame kind)

/-- R125. -/
def extract0 (L : Layout) (f : Frame) : DecodeResult :=
  .known0 (readField L f .gear) (readField L f .rpm) (readField L f .iq) (readField L f .id)

/-- R126. -/
def extract1 (L : Layout) (f : Frame) : DecodeResult := .known1 (readField L f .voltage)

/-- R127. -/
def extract4 (L : Layout) (f : Frame) : DecodeResult := .known4 (readField L f .ctrlTemp)

/-- R128. -/
def extract13 (L : Layout) (f : Frame) : DecodeResult :=
  .known13 (readField L f .motorTemp) (readField L f .throttle)

/-- R124, R130: the extraction the kind byte `b[1]` selects. -/
def extract (L : Layout) (f : Frame) : DecodeResult :=
  match groupOf f[1] with
  | some .g0 => extract0 L f
  | some .g1 => extract1 L f
  | some .g4 => extract4 L f
  | some .g13 => extract13 L f
  | none => .unknown f[1] (payloadOf f)

/-- R121: Decode: length, then header, then kind. -/
def decodeInput (L : Layout) (b : List Byte) : DecodeResult :=
  if h : b.length = 16 then
    let f := frameOfList b h
    if f[0] ≠ Config.header then .errBadHeader else extract L f
  else .errWrongLength

/-- R152: the group writes of a fold, the valid flag with them; nothing for a result that is not Known_k (R27). -/
def foldResult (t : TRB) : DecodeResult → TRB
  | .known0 gear rpm iq id =>
    { t with gear := some gear, rpm := some rpm, iq := some iq, id := some id, valid0 := true }
  | .known1 voltage => { t with voltage := some voltage, valid1 := true }
  | .known4 ctrlTemp => { t with ctrlTemp := some ctrlTemp, valid4 := true }
  | .known13 motorTemp throttle =>
    { t with motorTemp := some motorTemp, throttle := some throttle, valid13 := true }
  | .unknown _ _ => t
  | .errWrongLength => t
  | .errBadHeader => t

/-- R151: does a DECF with this result write the TRB? FOLD_EN is sampled when the DECF executes. -/
def folds (s : State) (r : DecodeResult) : Bool := s.ctrl.foldEn && isKnown r

/-- R150: the end of a DECF whose decode gave `r`. -/
def decodeAndFold (s : State) (r : DecodeResult) : Result :=
  respond (if folds s r then s.withTrb (foldResult s.trb r) else s) (responseOf r (folds s r))

/-- R157: every valid flag to 0 and every data field to no value. -/
def clearBank (_ : TRB) : TRB :=
  { valid0 := false, valid1 := false, valid4 := false, valid13 := false,
    gear := none, rpm := none, iq := none, id := none,
    voltage := none, ctrlTemp := none, motorTemp := none, throttle := none }

/-- R155, R156: the atomic snapshot of the bank. -/
def snapshot (t : TRB) : Snapshot :=
  { gear := bankValue t .gear, rpm := bankValue t .rpm, iq := bankValue t .iq, id := bankValue t .id,
    voltage := bankValue t .voltage, ctrlTemp := bankValue t .ctrlTemp,
    motorTemp := bankValue t .motorTemp, throttle := bankValue t .throttle }

/-- R23, R185 (3): a consumer's use of a TRB field; it faults while the field has no value. -/
def consumerRead (s : State) (F : Field) : Except Fault (BitVec F.width) :=
  match bankValue s.trb F with
  | some v => .ok v
  | none => .error (.invalidGroupRead F)

/-- R132: what a consumer reads of a field in physical terms, under this instance's RPM_SIGNED. -/
def consumerPhysical (s : State) (F : Field) : Except Fault Rat :=
  match consumerRead s F with
  | .ok v => .ok (fieldPhysical s.config.rpmSigned F v)
  | .error e => .error e

/-- R200, R201: the reset input: TRB and CTRL take their reset values, the configuration stays, no response. -/
def hostReset (s : State) : State := (s.withTrb TRB.reset).withCtrl Ctrl.reset

/-- R76, R185 (1): building an instance; an ill-formed LAYOUT is refused by name. What TRB and CTRL hold before the first
reset is log 16. -/
def State.build (t : LayoutTable) (rpmSigned : Bool) : Result :=
  if h : t.wf = true then .next (State.ofConfig { layout := ⟨t, h⟩, rpmSigned := rpmSigned })
  else .refused .illFormedLayout

/-- Is this event a command, which the block owes a response? -/
def HostEvent.isCommand : HostEvent → Bool
  | .present _ => true
  | .reset => false

/-- R36, R205: the host makes a move now. It has none while a command is unanswered, but that it may assert reset at any
time; the reset then takes effect after that command (R189). -/
def State.present (s : State) (e : HostEvent) : Result :=
  if e.isCommand && s.input.any HostEvent.isCommand then .refused .commandOverlap else .next (s.withInput (s.input ++ [e]))

/-- What the front of the host's input asks for. -/
inductive Fetched where
  /-- exactly one whole command, and the state with the event taken -/
  | command (i : Instr) (s : State)
  /-- a reset, and the state with the event taken -/
  | reset (s : State)
  /-- the bytes presented do not begin with a whole command -/
  | incomplete
  /-- the bytes presented go on after a whole command -/
  | overlap
  /-- nothing presented -/
  | idle
deriving DecidableEq, Repr

/-- R34, R36, R189: the next host event, in the order presented; a reset stands between two commands. -/
def fetch (s : State) : Fetched :=
  match s.input with
  | [] => .idle
  | .reset :: es => .reset (s.withInput es)
  | .present bytes :: es =>
    match decodeCommand bytes with
    | .ok (i, []) => .command i (s.withInput es)
    | .ok (_, _ :: _) => .overlap
    | .error _ => .incomplete

/-- A table word put on the command port ahead of everything else the host presents. -/
def presentWord (s : State) (nbits w : Nat) : State := s.withInput (.present (tableCommand nbits w) :: s.input)

end Sys2Proof.Machine
end

