-- ==== Sys2Proof/Machine/BankRows.lean ====
section
/-! DEFINITION. The register commands RDT, CLR, WRCTL and RDCTL (42_fold R155 to R162), and an illegal command
(60_exceptions R184). -/

namespace Sys2Proof.Machine

/-- RDT (R155). -/
def execRdt (s : State) : Result := respond s (okResponse (.telemetry (validMask s.trb) (snapshot s.trb)))

/-- CLR (R157); CTRL keeps its value (R158). -/
def execClr (s : State) : Result := respond (s.withTrb (clearBank s.trb)) (okResponse .empty)

/-- WRCTL (R160). -/
def execWrctl (value : Byte) (s : State) : Result :=
  respond (s.withCtrl (Ctrl.ofByte value)) (okResponse .empty)

/-- RDCTL (R162). -/
def execRdctl (s : State) : Result := respond s (okResponse (.ctrl s.ctrl.toByte))

/-- ILLEGAL (R184). -/
def execIllegal (_opcode : Byte) (s : State) : Result := raiseError s .errIllegalCmd

end Sys2Proof.Machine
end

