-- ==== Sys2Proof/Machine/DecodeRows.lean ====
section
/-! DEFINITION. The DEC command (41_decode R120): decode the input, answer the result, write nothing. -/

namespace Sys2Proof.Machine

/-- DEC (R120). -/
def execDec (input : List Byte) (s : State) : Result :=
  respond s (responseOf (decodeInput s.config.layout input) false)

end Sys2Proof.Machine
end

