-- ==== Sys2Proof/Machine/EncodeRows.lean ====
section
/-! DEFINITION. The ENC family (40_encode): each row returns the frame of its kind; no state is written and no error is
raised (R100, R109). -/

namespace Sys2Proof.Machine

/-- ENC.K0 (R103). -/
def execEncK0 (v : ValueBlock) (s : State) : Result :=
  respond s (okResponse (.frame (encodeFrame s.config.layout 0x00#8 v)))

/-- ENC.K1 (R104). -/
def execEncK1 (v : ValueBlock) (s : State) : Result :=
  respond s (okResponse (.frame (encodeFrame s.config.layout 0x01#8 v)))

/-- ENC.K4 (R105). -/
def execEncK4 (v : ValueBlock) (s : State) : Result :=
  respond s (okResponse (.frame (encodeFrame s.config.layout 0x04#8 v)))

/-- ENC.K13 (R106). -/
def execEncK13 (v : ValueBlock) (s : State) : Result :=
  respond s (okResponse (.frame (encodeFrame s.config.layout 0x0D#8 v)))

/-- ENC.UNKNOWN (R107): the kind owns no field, so V is ignored. -/
def execEncUnknown (kind : Byte) (v : ValueBlock) (s : State) : Result :=
  respond s (okResponse (.frame (encodeFrame s.config.layout kind v)))

end Sys2Proof.Machine
end

