-- ==== Sys2Proof/Machine/FoldRows.lean ====
section
/-! DEFINITION. The DECF command and its fold rows (42_fold R150 to R154): decode as DEC does, and write the owned group
if FOLD_EN is 1 and the kind is known. -/

namespace Sys2Proof.Machine

/-- DECF (R150). -/
def execDecf (input : List Byte) (s : State) : Result := decodeAndFold s (decodeInput s.config.layout input)

/-- DECF.K0 (R152): gear, rpm, iq and id, and valid_0. -/
def execDecfK0 (p : Payload) (s : State) : Result :=
  decodeAndFold s (extract0 s.config.layout (frameOf Config.header 0x00#8 p))

/-- DECF.K1 (R152): voltage, and valid_1. -/
def execDecfK1 (p : Payload) (s : State) : Result :=
  decodeAndFold s (extract1 s.config.layout (frameOf Config.header 0x01#8 p))

/-- DECF.K4 (R152): ctrl_temp, and valid_4. -/
def execDecfK4 (p : Payload) (s : State) : Result :=
  decodeAndFold s (extract4 s.config.layout (frameOf Config.header 0x04#8 p))

/-- DECF.K13 (R152): motor_temp and throttle, and valid_13. -/
def execDecfK13 (p : Payload) (s : State) : Result :=
  decodeAndFold s (extract13 s.config.layout (frameOf Config.header 0x0D#8 p))

end Sys2Proof.Machine
end

