-- ==== Sys2Proof/Machine/FrameRows.lean ====
section
/-! DEFINITION. The FRAME rows (41_decode R122 to R130): what a decode input that selects the row is answered. A FRAME
row is reached as the input of a DEC command; its response is that command's (log 1), and no state is written (R120). -/

namespace Sys2Proof.Machine

/-- FRAME.INVALID_LENGTH (R122): no byte is read. -/
def execFrameInvalidLength (_bytes : List Byte) (s : State) : Result := raiseError s .errWrongLength

/-- FRAME.BAD_HEADER (R123): no field is extracted. -/
def execFrameBadHeader (_header : Byte) (_rest : Vector Byte 15) (s : State) : Result := raiseError s .errBadHeader

/-- FRAME.K0 (R125). -/
def execFrameK0 (p : Payload) (s : State) : Result :=
  respond s (responseOf (extract0 s.config.layout (frameOf Config.header 0x00#8 p)) false)

/-- FRAME.K1 (R126). -/
def execFrameK1 (p : Payload) (s : State) : Result :=
  respond s (responseOf (extract1 s.config.layout (frameOf Config.header 0x01#8 p)) false)

/-- FRAME.K4 (R127). -/
def execFrameK4 (p : Payload) (s : State) : Result :=
  respond s (responseOf (extract4 s.config.layout (frameOf Config.header 0x04#8 p)) false)

/-- FRAME.K13 (R128). -/
def execFrameK13 (p : Payload) (s : State) : Result :=
  respond s (responseOf (extract13 s.config.layout (frameOf Config.header 0x0D#8 p)) false)

/-- FRAME.UNKNOWN (R130): the kind and the 14 payload bytes, unchanged and in order. -/
def execFrameUnknown (kind : Byte) (p : Payload) (s : State) : Result :=
  respond s (responseOf (.unknown kind p) false)

end Sys2Proof.Machine
end

