-- ==== Sys2Proof/Machine/Dispatch.lean ====
section
/-! DEFINITION. One arm per row of spec/opcode_table.json. -/

namespace Sys2Proof.Machine

def exec (i : Instr) (s : State) : Host.Outcome State Fault Refusal :=
  match i with
  | .frameInvalidLength bytes => Sys2Proof.Machine.execFrameInvalidLength bytes s
  | .frameBadHeader header rest => Sys2Proof.Machine.execFrameBadHeader header rest s
  | .frameK0 payload => Sys2Proof.Machine.execFrameK0 payload s
  | .frameK1 payload => Sys2Proof.Machine.execFrameK1 payload s
  | .frameK4 payload => Sys2Proof.Machine.execFrameK4 payload s
  | .frameK13 payload => Sys2Proof.Machine.execFrameK13 payload s
  | .frameUnknown kind payload => Sys2Proof.Machine.execFrameUnknown kind payload s
  | .encK0 v => Sys2Proof.Machine.execEncK0 v s
  | .encK1 v => Sys2Proof.Machine.execEncK1 v s
  | .encK4 v => Sys2Proof.Machine.execEncK4 v s
  | .encK13 v => Sys2Proof.Machine.execEncK13 v s
  | .encUnknown kind v => Sys2Proof.Machine.execEncUnknown kind v s
  | .dec input => Sys2Proof.Machine.execDec input s
  | .decf input => Sys2Proof.Machine.execDecf input s
  | .decfK0 payload => Sys2Proof.Machine.execDecfK0 payload s
  | .decfK1 payload => Sys2Proof.Machine.execDecfK1 payload s
  | .decfK4 payload => Sys2Proof.Machine.execDecfK4 payload s
  | .decfK13 payload => Sys2Proof.Machine.execDecfK13 payload s
  | .rdt => Sys2Proof.Machine.execRdt s
  | .clr => Sys2Proof.Machine.execClr s
  | .wrctl value => Sys2Proof.Machine.execWrctl value s
  | .rdctl => Sys2Proof.Machine.execRdctl s
  | .illegal opcode => Sys2Proof.Machine.execIllegal opcode s

end Sys2Proof.Machine
end

