-- ==== Sys2Proof/Machine/Step.lean ====
section
/-! DEFINITION. One step: take the next host event and perform it. -/

namespace Sys2Proof.Machine

/-- R14, R34, R189: one command, or one reset, per step. -/
def step (s : State) : Host.Outcome State Fault Refusal :=
  match fetch s with
  | .command i t => exec i t
  | .reset t => .next (hostReset t)
  | .incomplete => .refused .incompleteCommand
  | .overlap => .refused .commandOverlap
  | .idle => .refused .noCommand

/-- A table word put where `step` takes its next command (log 12). -/
def State.withFetchWord (s : State) (nbits w : Nat) : State := presentWord s nbits w

end Sys2Proof.Machine
end

