-- ==== Sys2Proof/Machine/Assembler.lean ====
section
/-! DEFINITION. The assembler of 30_encoding R90 and R91 and the integer front end of R85: one line of text to one
instruction. It is a front end of the host: no step depends on it, and it depends on LAYOUT alone (R7). What the spec's grammar leaves open is log 15. -/

namespace Sys2Proof.Machine

/-- Why a line is refused (R85, R90). -/
inductive AsmError where
  /-- the first word is no command of R90 or R91 -/
  | unknownCommand
  /-- the operands do not have the form of R90 -/
  | malformedOperands
  /-- a field name that R73 does not have -/
  | unknownField
  /-- a field value outside the field's range (R85) -/
  | valueOutOfRange (field : Field)
  /-- a kind, an input byte or a WRCTL value that is not an 8-bit number (R85) -/
  | byteOutOfRange
  /-- a DEC or DECF list longer than 255 bytes (R90) -/
  | listTooLong
deriving DecidableEq, Repr

inductive Token where
  | word (cs : List Char)
  | comma
  | equals
  | opening
  | closing
deriving DecidableEq, Repr

/-- The word read so far, its characters last first, as a token. -/
def flushWord (acc : List Char) : List Token := if acc.isEmpty then [] else [.word acc.reverse]

/-- R90: a line's tokens; a comment begins with `;`. -/
def lexLine : List Char → List Char → List Token
  | [], acc => flushWord acc
  | c :: cs, acc =>
    if c = ';' then flushWord acc
    else if c = ' ' ∨ c = '\t' then flushWord acc ++ lexLine cs []
    else if c = ',' then flushWord acc ++ .comma :: lexLine cs []
    else if c = '=' then flushWord acc ++ .equals :: lexLine cs []
    else if c = '[' then flushWord acc ++ .opening :: lexLine cs []
    else if c = ']' then flushWord acc ++ .closing :: lexLine cs []
    else lexLine cs (c :: acc)

/-- A digit below the base. -/
def digitOf (base : Nat) (c : Char) : Option Nat :=
  let d :=
    if '0' ≤ c ∧ c ≤ '9' then some (c.toNat - '0'.toNat)
    else if 'a' ≤ c ∧ c ≤ 'f' then some (c.toNat - 'a'.toNat + 10)
    else if 'A' ≤ c ∧ c ≤ 'F' then some (c.toNat - 'A'.toNat + 10)
    else none
  match d with
  | some n => if n < base then some n else none
  | none => none

/-- Digits, most significant first, after the number `acc`. -/
def digitsFrom (base : Nat) : Nat → List Char → Option Nat
  | acc, [] => some acc
  | acc, c :: cs =>
    match digitOf base c with
    | some d => digitsFrom base (acc * base + d) cs
    | none => none

/-- At least one digit in a base. -/
def numberIn (base : Nat) (cs : List Char) : Option Nat := if cs.isEmpty then none else digitsFrom base 0 cs

/-- R90: a number, decimal unless prefixed `0x`. -/
def parseNat : List Char → Option Nat
  | '0' :: 'x' :: cs => numberIn 16 cs
  | cs => numberIn 10 cs

/-- R90: a field value, which may be a negative decimal. -/
def parseInt : List Char → Option Int
  | '-' :: cs => (numberIn 10 cs).map (fun n => -(n : Int))
  | cs => (parseNat cs).map (fun n => (n : Int))

/-- An 8-bit operand. -/
def byteOfNat (n : Nat) : Except AsmError Byte := if n < 256 then .ok (BitVec.ofNat 8 n) else .error .byteOutOfRange

/-- A kind or a WRCTL value. -/
def parseByte (cs : List Char) : Except AsmError Byte :=
  match parseNat cs with
  | some n => byteOfNat n
  | none => .error .malformedOperands

/-- R90: an input byte, in hexadecimal. -/
def parseHexByte (cs : List Char) : Except AsmError Byte :=
  match numberIn 16 cs with
  | some n => byteOfNat n
  | none => .error .malformedOperands

/-- R90: the field a name stands for, by the names of R73. -/
def fieldNamed (cs : List Char) : Option Field :=
  if cs = "gear".toList then some .gear
  else if cs = "rpm".toList then some .rpm
  else if cs = "iq".toList then some .iq
  else if cs = "id".toList then some .id
  else if cs = "voltage".toList then some .voltage
  else if cs = "ctrl_temp".toList then some .ctrlTemp
  else if cs = "motor_temp".toList then some .motorTemp
  else if cs = "throttle".toList then some .throttle
  else none

/-- R90: an omitted field is 0 in V. -/
def zeroBlock : ValueBlock :=
  { gear := 0, rpm := 0, iq := 0, id := 0, voltage := 0, ctrlTemp := 0, motorTemp := 0, throttle := 0 }

/-- A value block with one field set. -/
def setField (v : ValueBlock) (F : Field) (x : BitVec F.width) : ValueBlock :=
  match F, x with
  | .gear, x => { v with gear := x }
  | .rpm, x => { v with rpm := x }
  | .iq, x => { v with iq := x }
  | .id, x => { v with id := x }
  | .voltage, x => { v with voltage := x }
  | .ctrlTemp, x => { v with ctrlTemp := x }
  | .motorTemp, x => { v with motorTemp := x }
  | .throttle, x => { v with throttle := x }

/-- R85, R90: `<field>=<value>` written into a value block; an unknown name or a value out of range is refused. -/
def assignField (v : ValueBlock) (name value : List Char) : Except AsmError ValueBlock :=
  match fieldNamed name with
  | none => .error .unknownField
  | some F =>
    match parseInt value with
    | none => .error .malformedOperands
    | some z =>
      match spelledValue F z with
      | some x => .ok (setField v F x)
      | none => .error (.valueOutOfRange F)

/-- R90: the `{, <field>=<value>}` of a line. -/
def parseAssigns : List Token → ValueBlock → Except AsmError ValueBlock
  | [], v => .ok v
  | .comma :: .word name :: .equals :: .word value :: ts, v =>
    match assignField v name value with
    | .ok v' => parseAssigns ts v'
    | .error e => .error e
  | _, _ => .error .malformedOperands

/-- R90: `<kind>{, <field>=<value>}`. -/
def parseKindAndFields : List Token → Except AsmError (Byte × ValueBlock)
  | .word k :: ts =>
    match parseByte k with
    | .error e => .error e
    | .ok kind =>
      match parseAssigns ts zeroBlock with
      | .ok v => .ok (kind, v)
      | .error e => .error e
  | _ => .error .malformedOperands

/-- R90: the bytes of a list, up to its closing bracket, which ends the line. -/
def parseBytes : List Token → Except AsmError (List Byte)
  | [.closing] => .ok []
  | .word cs :: ts =>
    match parseHexByte cs with
    | .error e => .error e
    | .ok b =>
      match parseBytes ts with
      | .ok bs => .ok (b :: bs)
      | .error e => .error e
  | _ => .error .malformedOperands

/-- R90: a list longer than 255 bytes is refused. -/
def boundedInput (b : List Byte) : Except AsmError (List Byte) :=
  if b.length ≤ Config.nMax then .ok b else .error .listTooLong

/-- R90, R91: the input of a DEC or DECF, a byte list or the literal frame `FRAME <kind>{, <field>=<value>}`. -/
def parseInput (L : Layout) : List Token → Except AsmError (List Byte)
  | .opening :: ts =>
    match parseBytes ts with
    | .ok b => boundedInput b
    | .error e => .error e
  | .word w :: ts =>
    if w = "FRAME".toList then
      match parseKindAndFields ts with
      | .ok (kind, v) => .ok (encodeFrame L kind v).toList
      | .error e => .error e
    else .error .malformedOperands
  | _ => .error .malformedOperands

/-- A command without operands. -/
def noOperands (i : Instr) : List Token → Except AsmError Instr
  | [] => .ok i
  | _ => .error .malformedOperands

/-- R90, R91: the command a word and its operands spell; FOLDON is `WRCTL 0x01` and FOLDOFF is `WRCTL 0x00`. -/
def assembleCommand (L : Layout) (name : List Char) (ts : List Token) : Except AsmError Instr :=
  if name = "ENC".toList then
    match parseKindAndFields ts with
    | .ok (kind, v) => .ok (encRow kind v)
    | .error e => .error e
  else if name = "DEC".toList then
    match parseInput L ts with
    | .ok b => .ok (.dec b)
    | .error e => .error e
  else if name = "DECF".toList then
    match parseInput L ts with
    | .ok b => .ok (decfRow b)
    | .error e => .error e
  else if name = "RDT".toList then noOperands .rdt ts
  else if name = "CLR".toList then noOperands .clr ts
  else if name = "RDCTL".toList then noOperands .rdctl ts
  else if name = "WRCTL".toList then
    match ts with
    | [.word v] =>
      match parseByte v with
      | .ok b => .ok (.wrctl b)
      | .error e => .error e
    | _ => .error .malformedOperands
  else if name = "FOLDON".toList then noOperands (.wrctl 0x01#8) ts
  else if name = "FOLDOFF".toList then noOperands (.wrctl 0x00#8) ts
  else .error .unknownCommand

/-- R90: one line; `none` for a line with no command. -/
def assembleLine (L : Layout) (line : List Char) : Except AsmError (Option Instr) :=
  match lexLine line [] with
  | [] => .ok none
  | .word name :: ts =>
    match assembleCommand L name ts with
    | .ok i => .ok (some i)
    | .error e => .error e
  | _ => .error .unknownCommand

end Sys2Proof.Machine
end

