-- ==== Sys2Proof/Machine/System.lean ====
section
/-! DEFINITION. N_LINKS instances side by side (00_scope R8, 60_exceptions R194): each has its own state, a step of one is
a step of that instance alone, and nothing orders one against another (20_memory R61). -/

namespace Sys2Proof.Machine

/-- R194: one instance per concurrent session; N_LINKS is the length of the list. -/
structure System where
  links : List State
deriving DecidableEq, Repr

/-- R8: N_LINKS. -/
def System.nLinks (y : System) : Nat := y.links.length

/-- R8, R76: a system of `n` instances built alike; an ill-formed LAYOUT is refused. -/
def System.build (n : Nat) (t : LayoutTable) (rpmSigned : Bool) : Host.Outcome System Fault Refusal :=
  match State.build t rpmSigned with
  | .next s => .next ⟨List.replicate n s⟩
  | .fault f => .fault f
  | .refused r => .refused r

/-- R194: instance `k` takes one step and every other instance keeps its state. -/
def System.stepLink (y : System) (k : Fin y.links.length) : Host.Outcome System Fault Refusal :=
  match step y.links[k] with
  | .next t => .next ⟨y.links.set k t⟩
  | .fault f => .fault f
  | .refused r => .refused r

/-- R8, R36: the host of session `k` makes a move on its own instance; no other instance is touched. -/
def System.present (y : System) (k : Fin y.links.length) (e : HostEvent) : Host.Outcome System Fault Refusal :=
  match y.links[k].present e with
  | .next t => .next ⟨y.links.set k t⟩
  | .fault f => .fault f
  | .refused r => .refused r

end Sys2Proof.Machine
end

