-- ==== Sys2Proof/Safety.lean ====
section
/-! DEFINITION. What claims are stated in: the register bank's invariant (10_state R23), a host that keeps its duty of
one whole command at a time (10_state R36, 30_encoding R89), the bytes of a frame a kind uses, and what an instruction leaves alone. -/

namespace Sys2Proof.Machine

/-- R23: the data fields of a group hold values exactly when its valid flag is 1. -/
structure TRB.Consistent (t : TRB) : Prop where
  gear : t.gear.isSome = t.valid0
  rpm : t.rpm.isSome = t.valid0
  iq : t.iq.isSome = t.valid0
  id : t.id.isSome = t.valid0
  voltage : t.voltage.isSome = t.valid1
  ctrlTemp : t.ctrlTemp.isSome = t.valid4
  motorTemp : t.motorTemp.isSome = t.valid13
  throttle : t.throttle.isSome = t.valid13

/-- The invariant of an instance. -/
def State.Inv (s : State) : Prop := s.trb.Consistent

/-- R36 (H1), R89, R205: each sequence the host presents is exactly one whole command: none is incomplete, and none goes on
with a second command before the response to the first. -/
def OneCommandEach (es : List HostEvent) : Prop :=
  ∀ bytes, HostEvent.present bytes ∈ es → ∃ i, decodeCommand bytes = .ok (i, [])

/-- R36: the host keeps its duty H1: one whole command at a time, each with a legal opcode. -/
def HostKeepsDuty (es : List HostEvent) : Prop :=
  ∀ bytes, HostEvent.present bytes ∈ es → ∃ i, decodeCommand bytes = .ok (i, []) ∧ ∀ op, i ≠ .illegal op

/-- R73, R101: byte `j` of a frame is one that a field of the kind occupies. -/
def Occupied (L : Layout) (kind : Byte) (j : Nat) : Prop :=
  ∃ F : Field, F.owner.kind = kind ∧ L.off F ≤ j ∧ j < L.off F + F.bytes

/-- R76, in the spec's words: every field inside the payload, and fields of one owner disjoint. -/
def LayoutWellFormed (t : LayoutTable) : Prop :=
  (∀ F : Field, 2 ≤ t.off F ∧ t.off F + F.width / 8 - 1 ≤ 15) ∧
  (∀ F G : Field, F ≠ G → F.owner = G.owner →
    ∀ j, ¬((t.off F ≤ j ∧ j < t.off F + F.width / 8) ∧ (t.off G ≤ j ∧ j < t.off G + G.width / 8)))

/-- The five ENC rows. -/
def isEnc : Instr → Bool
  | .frameInvalidLength _ => false
  | .frameBadHeader _ _ => false
  | .frameK0 _ => false
  | .frameK1 _ => false
  | .frameK4 _ => false
  | .frameK13 _ => false
  | .frameUnknown _ _ => false
  | .encK0 _ => true
  | .encK1 _ => true
  | .encK4 _ => true
  | .encK13 _ => true
  | .encUnknown _ _ => true
  | .dec _ => false
  | .decf _ => false
  | .decfK0 _ => false
  | .decfK1 _ => false
  | .decfK4 _ => false
  | .decfK13 _ => false
  | .rdt => false
  | .clr => false
  | .wrctl _ => false
  | .rdctl => false
  | .illegal _ => false

/-- The decode input of a row that decodes one: the FRAME rows' own bytes, and the input of DEC and DECF. -/
def decodeInputOf : Instr → Option (List Byte)
  | .frameInvalidLength bytes => some bytes
  | .frameBadHeader header rest => some (header :: rest.toList)
  | .frameK0 p => some (0xAA#8 :: 0x00#8 :: p.toList)
  | .frameK1 p => some (0xAA#8 :: 0x01#8 :: p.toList)
  | .frameK4 p => some (0xAA#8 :: 0x04#8 :: p.toList)
  | .frameK13 p => some (0xAA#8 :: 0x0D#8 :: p.toList)
  | .frameUnknown kind p => some (0xAA#8 :: kind :: p.toList)
  | .dec b => some b
  | .decf b => some b
  | .decfK0 p => some (0xAA#8 :: 0x00#8 :: p.toList)
  | .decfK1 p => some (0xAA#8 :: 0x01#8 :: p.toList)
  | .decfK4 p => some (0xAA#8 :: 0x04#8 :: p.toList)
  | .decfK13 p => some (0xAA#8 :: 0x0D#8 :: p.toList)
  | .encK0 _ => none
  | .encK1 _ => none
  | .encK4 _ => none
  | .encK13 _ => none
  | .encUnknown _ _ => none
  | .rdt => none
  | .clr => none
  | .wrctl _ => none
  | .rdctl => none
  | .illegal _ => none

/-- DECF and its four fold rows. -/
def isDecf : Instr → Bool
  | .frameInvalidLength _ => false
  | .frameBadHeader _ _ => false
  | .frameK0 _ => false
  | .frameK1 _ => false
  | .frameK4 _ => false
  | .frameK13 _ => false
  | .frameUnknown _ _ => false
  | .encK0 _ => false
  | .encK1 _ => false
  | .encK4 _ => false
  | .encK13 _ => false
  | .encUnknown _ _ => false
  | .dec _ => false
  | .decf _ => true
  | .decfK0 _ => true
  | .decfK1 _ => true
  | .decfK4 _ => true
  | .decfK13 _ => true
  | .rdt => false
  | .clr => false
  | .wrctl _ => false
  | .rdctl => false
  | .illegal _ => false

/-- R151 (b), of the bytes alone: the group of the known kind of a 16-byte input with header 0xAA. -/
def knownGroup : List Byte → Option Group
  | h :: k :: rest => if h = 0xAA#8 ∧ rest.length = 14 then groupOf k else none
  | _ => none

/-- R151: does the instruction, run in this state, fold group `G`? -/
def FoldsGroup (i : Instr) (s : State) (G : Group) : Prop :=
  isDecf i = true ∧ s.ctrl.foldEn = true ∧ ∃ b, decodeInputOf i = some b ∧ knownGroup b = some G

/-- The bank with its group `G` compared: the valid flag and every data field of G are the same. -/
def SameGroup (t u : TRB) (G : Group) : Prop :=
  groupValid t G = groupValid u G ∧ ∀ F : Field, F.owner = G → bankField t F = bankField u F

end Sys2Proof.Machine
end

