-- ==== Sys2Proof/Certificates/Slice0/Obligations.lean ====
section
/-! DEFINITION. The statements for the provers, by part: encoding, the step, the ENC family, the decode rows, the fold
family, the register commands, responses and errors, reset and building, whole-machine rules, meaning of bits, links. -/

open Sys2Proof Sys2Proof.Machine

/-! ### Encoding -/

/-- A command decodes back from its bytes, whatever follows it (R81 to R84). -/
def Obligations.CommandDecodesFromItsBytes : Prop :=
  ∀ (i : Instr) (rest : List Byte), i.wf = true → i.format = .cmd →
    decodeCommand (encode i ++ rest) = .ok (i, rest)

/-- A FRAME row is the one its bytes select (R78). -/
def Obligations.FrameRowDecodesFromItsBytes : Prop :=
  ∀ i : Instr, i.wf = true → i.format = .frame → decodeFrame (encode i) = i

/-- No bit of a command is dropped: its bytes are those of the instruction it decodes to, which is well-formed. -/
def Obligations.CommandBytesAreThoseOfItsInstruction : Prop :=
  ∀ (bytes rest : List Byte) (i : Instr), decodeCommand bytes = .ok (i, rest) →
    i.wf = true ∧ i.format = .cmd ∧ encode i ++ rest = bytes

/-- Every byte sequence is the frame of exactly the FRAME row it selects. -/
def Obligations.EveryInputSelectsOneFrameRow : Prop :=
  ∀ b : List Byte, (decodeFrame b).wf = true ∧ (decodeFrame b).format = .frame ∧ encode (decodeFrame b) = b ∧
    ∀ i : Instr, i.wf = true → i.format = .frame → encode i = b → i = decodeFrame b

/-- Words written out from 30_encoding R82, R83 and the vectors of 95_test_vectors decode to the rows they stand for. -/
def Obligations.WrittenWordsDecode : Prop :=
  decodeCommand [0x01#8, 0x00#8, 0x03#8, 0x04#8, 0xB0#8, 0xFB#8, 0x2E#8, 0x01#8, 0xF4#8, 0x00#8, 0x00#8, 0x00#8, 0x00#8, 0x00#8, 0x00#8] =
    .ok (.encK0 { gear := 3, rpm := 1200, iq := 0xFB2E, id := 500, voltage := 0, ctrlTemp := 0, motorTemp := 0,
                  throttle := 0 }, []) ∧
  decodeCommand [0x02#8, 0x00#8] = .ok (.dec [], []) ∧
  decodeCommand [0x03#8, 0x02#8, 0xAA#8, 0x01#8] = .ok (.decf [0xAA#8, 0x01#8], []) ∧
  decodeCommand [0x04#8] = .ok (.rdt, []) ∧
  decodeCommand [0x05#8] = .ok (.clr, []) ∧
  decodeCommand [0x06#8, 0xFF#8] = .ok (.wrctl 0xFF#8, []) ∧
  decodeCommand [0x07#8] = .ok (.rdctl, []) ∧
  decodeCommand [0x08#8] = .ok (.illegal 0x08#8, [])

/-- R89: which sequences are refused: the empty one, an ENC with fewer than 15 bytes, a DEC or DECF without its length byte
or with fewer bytes than it promises, and a WRCTL without its value; every other sequence begins with a whole command. -/
def Obligations.OnlyIncompleteCommandsAreRefused : Prop :=
  ∀ bytes : List Byte,
    (∃ e, decodeCommand bytes = .error e) ↔
      bytes = [] ∨
      (bytes[0]? = some 0x01#8 ∧ bytes.length < 15) ∨
      ((bytes[0]? = some 0x02#8 ∨ bytes[0]? = some 0x03#8) ∧
        (bytes.length < 2 ∨ ∃ n, bytes[1]? = some n ∧ bytes.length < n.toNat + 2)) ∨
      (bytes[0]? = some 0x06#8 ∧ bytes.length < 2)

/-! ### The step -/

/-- A step whose next host event presents the bytes of exactly one command runs that command, on the state from which the
event is taken (R34, R36). -/
def Obligations.StepRunsTheDecodedCommand : Prop :=
  ∀ (s : State) (bytes : List Byte) (es : List HostEvent) (i : Instr),
    s.input = .present bytes :: es → decodeCommand bytes = .ok (i, []) → step s = exec i (s.withInput es)

/-- R185, R187, R36: a step goes on except in three cases, each refused by its own name: nothing presented (log 7), bytes that
do not begin with a whole command (R89), and bytes that go on after one, a second command before the response (R36, R205,
D25). No step faults. -/
def Obligations.StepStopsOnlyWithoutAWholeCommand : Prop :=
  ∀ s : State,
    (step s = .refused .noCommand ↔ s.input = []) ∧
    (step s = .refused .incompleteCommand ↔
      ∃ bytes es e, s.input = .present bytes :: es ∧ decodeCommand bytes = .error e) ∧
    (step s = .refused .commandOverlap ↔
      ∃ bytes es i rest, s.input = .present bytes :: es ∧ decodeCommand bytes = .ok (i, rest) ∧ rest ≠ []) ∧
    (∀ r, step s = .refused r → r = .noCommand ∨ r = .incompleteCommand ∨ r = .commandOverlap) ∧
    (∀ f, step s ≠ .fault f)

/-- R187, R36: while each sequence the host presents is one whole command, no step is stuck, and that holds of what is left;
while the host also keeps to legal opcodes, it goes on doing so and no response says ERR_ILLEGAL_CMD. -/
def Obligations.WholeCommandsAreNeverStuck : Prop :=
  ∀ s : State, OneCommandEach s.input → s.input ≠ [] → ∃ t, step s = .next t ∧ OneCommandEach t.input ∧
    (HostKeepsDuty s.input → HostKeepsDuty t.input ∧
      ∀ r, t.responses = s.responses ++ [r] → r.status ≠ .errIllegalCmd)

/-- R34: every instruction ends with exactly one response, takes no further host event and keeps the configuration. -/
def Obligations.EveryInstructionReturnsOneResponse : Prop :=
  ∀ (i : Instr) (s : State), ∃ t r, exec i s = .next t ∧ t.responses = s.responses ++ [r] ∧
    t.input = s.input ∧ t.config = s.config

/-! ### The ENC family. From the bytes of the command to the bytes of the frame. -/

/-- R103: ENC.K0. -/
def Obligations.EncKind0WritesItsFields : Prop :=
  ∀ (g r1 r0 q1 q0 d1 d0 x7 x8 x9 x10 x11 x12 : Byte) (s : State), ∃ v f,
    decodeCommand [0x01#8, 0x00#8, g, r1, r0, q1, q0, d1, d0, x7, x8, x9, x10, x11, x12] = .ok (.encK0 v, []) ∧
    exec (.encK0 v) s = .next (s.withResponse ⟨.ok, false, .frame f⟩) ∧
    f[0] = 0xAA#8 ∧ f[1] = 0x00#8 ∧
    f[s.config.layout.off .gear]? = some g ∧
    f[s.config.layout.off .rpm]? = some r1 ∧ f[s.config.layout.off .rpm + 1]? = some r0 ∧
    f[s.config.layout.off .iq]? = some q1 ∧ f[s.config.layout.off .iq + 1]? = some q0 ∧
    f[s.config.layout.off .id]? = some d1 ∧ f[s.config.layout.off .id + 1]? = some d0 ∧
    ∀ j (h : j < 16), 2 ≤ j → ¬Occupied s.config.layout 0x00#8 j → f[j] = 0x00#8

/-- R104: ENC.K1. -/
def Obligations.EncKind1WritesItsField : Prop :=
  ∀ (x0 x1 x2 x3 x4 x5 x6 v1 v0 x9 x10 x11 x12 : Byte) (s : State), ∃ v f,
    decodeCommand [0x01#8, 0x01#8, x0, x1, x2, x3, x4, x5, x6, v1, v0, x9, x10, x11, x12] = .ok (.encK1 v, []) ∧
    exec (.encK1 v) s = .next (s.withResponse ⟨.ok, false, .frame f⟩) ∧
    f[0] = 0xAA#8 ∧ f[1] = 0x01#8 ∧
    f[s.config.layout.off .voltage]? = some v1 ∧ f[s.config.layout.off .voltage + 1]? = some v0 ∧
    ∀ j (h : j < 16), 2 ≤ j → ¬Occupied s.config.layout 0x01#8 j → f[j] = 0x00#8

/-- R105: ENC.K4. -/
def Obligations.EncKind4WritesItsField : Prop :=
  ∀ (x0 x1 x2 x3 x4 x5 x6 x7 x8 c x10 x11 x12 : Byte) (s : State), ∃ v f,
    decodeCommand [0x01#8, 0x04#8, x0, x1, x2, x3, x4, x5, x6, x7, x8, c, x10, x11, x12] = .ok (.encK4 v, []) ∧
    exec (.encK4 v) s = .next (s.withResponse ⟨.ok, false, .frame f⟩) ∧
    f[0] = 0xAA#8 ∧ f[1] = 0x04#8 ∧ f[s.config.layout.off .ctrlTemp]? = some c ∧
    ∀ j (h : j < 16), 2 ≤ j → ¬Occupied s.config.layout 0x04#8 j → f[j] = 0x00#8

/-- R106: ENC.K13. -/
def Obligations.EncKind13WritesItsFields : Prop :=
  ∀ (x0 x1 x2 x3 x4 x5 x6 x7 x8 x9 m t1 t0 : Byte) (s : State), ∃ v f,
    decodeCommand [0x01#8, 0x0D#8, x0, x1, x2, x3, x4, x5, x6, x7, x8, x9, m, t1, t0] = .ok (.encK13 v, []) ∧
    exec (.encK13 v) s = .next (s.withResponse ⟨.ok, false, .frame f⟩) ∧
    f[0] = 0xAA#8 ∧ f[1] = 0x0D#8 ∧ f[s.config.layout.off .motorTemp]? = some m ∧
    f[s.config.layout.off .throttle]? = some t1 ∧ f[s.config.layout.off .throttle + 1]? = some t0 ∧
    ∀ j (h : j < 16), 2 ≤ j → ¬Occupied s.config.layout 0x0D#8 j → f[j] = 0x00#8

/-- R107: ENC.UNKNOWN: header, kind and 14 zeros, whatever V is. -/
def Obligations.EncUnknownKindZeroFills : Prop :=
  ∀ (k : Byte) (vs : List Byte) (s : State), k ∉ [0x00#8, 0x01#8, 0x04#8, 0x0D#8] → vs.length = 13 → ∃ v f,
    decodeCommand (0x01#8 :: k :: vs) = .ok (.encUnknown k v, []) ∧
    exec (.encUnknown k v) s = .next (s.withResponse ⟨.ok, false, .frame f⟩) ∧
    f.toList = 0xAA#8 :: k :: List.replicate 14 0x00#8

/-- R108: the V bytes of a field the kind does not own have no effect on the frame. -/
def Obligations.EncodeReadsOnlyOwnedFields : Prop :=
  ∀ (L : Layout) (k : Byte) (v v' : ValueBlock),
    (∀ F : Field, F.owner.kind = k → getField v F = getField v' F) → encodeFrame L k v = encodeFrame L k v'

/-- R109: ENC has no error path, writes no state, and its frame depends on its operands and LAYOUT alone. -/
def Obligations.EncNeedsNoState : Prop :=
  ∀ i : Instr, isEnc i = true → ∃ frame : Layout → Frame, ∀ s : State,
    exec i s = .next (s.withResponse ⟨.ok, false, .frame (frame s.config.layout)⟩)

/-- R74: the frames of the four known kinds under LAYOUT_DEFAULT, byte by byte. -/
def Obligations.EncFramesUnderDefaultLayout : Prop :=
  ∀ (v : ValueBlock) (s : State), s.config.layout = layoutDefault →
    exec (.encK0 v) s = .next (s.withResponse ⟨.ok, false, .frame
      #v[0xAA#8, 0x00#8, v.gear, hiByte v.rpm, loByte v.rpm, hiByte v.iq, loByte v.iq, hiByte v.id, loByte v.id,
         0, 0, 0, 0, 0, 0, 0]⟩) ∧
    exec (.encK1 v) s = .next (s.withResponse ⟨.ok, false, .frame
      #v[0xAA#8, 0x01#8, hiByte v.voltage, loByte v.voltage, 0, 0, 0, 0, 0, 0, 0, 0, 0, 0, 0, 0]⟩) ∧
    exec (.encK4 v) s = .next (s.withResponse ⟨.ok, false, .frame
      #v[0xAA#8, 0x04#8, v.ctrlTemp, 0, 0, 0, 0, 0, 0, 0, 0, 0, 0, 0, 0, 0]⟩) ∧
    exec (.encK13 v) s = .next (s.withResponse ⟨.ok, false, .frame
      #v[0xAA#8, 0x0D#8, v.motorTemp, hiByte v.throttle, loByte v.throttle, 0, 0, 0, 0, 0, 0, 0, 0, 0, 0, 0]⟩)

/-! ### The decode rows -/

/-- R122: an input whose length is not 16. -/
def Obligations.DecodeRejectsWrongLength : Prop :=
  ∀ (b : List Byte) (s : State), b.length ≠ 16 →
    decodeInput s.config.layout b = .errWrongLength ∧
    exec (.dec b) s = .next (s.withResponse ⟨.errWrongLength, false, .empty⟩) ∧
    exec (.frameInvalidLength b) s = .next (s.withResponse ⟨.errWrongLength, false, .empty⟩)

/-- R123: a 16-byte input whose byte 0 is not 0xAA. -/
def Obligations.DecodeRejectsBadHeader : Prop :=
  ∀ (h : Byte) (rest : Vector Byte 15) (s : State), h ≠ 0xAA#8 →
    decodeInput s.config.layout (h :: rest.toList) = .errBadHeader ∧
    exec (.dec (h :: rest.toList)) s = .next (s.withResponse ⟨.errBadHeader, false, .empty⟩) ∧
    exec (.frameBadHeader h rest) s = .next (s.withResponse ⟨.errBadHeader, false, .empty⟩)

/-- R125: FRAME.K0, alone and as the input of DEC; `b` is the whole frame. -/
def Obligations.DecodeKind0ExtractsItsFields : Prop :=
  ∀ (p : Payload) (s : State) (b : List Byte), b = 0xAA#8 :: 0x00#8 :: p.toList → ∃ gear rpm iq id,
    exec (.frameK0 p) s = .next (s.withResponse ⟨.ok, false, .known0 gear rpm iq id⟩) ∧
    exec (.dec b) s = .next (s.withResponse ⟨.ok, false, .known0 gear rpm iq id⟩) ∧
    b[s.config.layout.off .gear]? = some gear ∧
    b[s.config.layout.off .rpm]? = some (rpm.extractLsb' 8 8) ∧
    b[s.config.layout.off .rpm + 1]? = some (rpm.extractLsb' 0 8) ∧
    b[s.config.layout.off .iq]? = some (iq.extractLsb' 8 8) ∧
    b[s.config.layout.off .iq + 1]? = some (iq.extractLsb' 0 8) ∧
    b[s.config.layout.off .id]? = some (id.extractLsb' 8 8) ∧
    b[s.config.layout.off .id + 1]? = some (id.extractLsb' 0 8)

/-- R126: FRAME.K1. -/
def Obligations.DecodeKind1ExtractsItsField : Prop :=
  ∀ (p : Payload) (s : State) (b : List Byte), b = 0xAA#8 :: 0x01#8 :: p.toList → ∃ voltage,
    exec (.frameK1 p) s = .next (s.withResponse ⟨.ok, false, .known1 voltage⟩) ∧
    exec (.dec b) s = .next (s.withResponse ⟨.ok, false, .known1 voltage⟩) ∧
    b[s.config.layout.off .voltage]? = some (voltage.extractLsb' 8 8) ∧
    b[s.config.layout.off .voltage + 1]? = some (voltage.extractLsb' 0 8)

/-- R127: FRAME.K4. -/
def Obligations.DecodeKind4ExtractsItsField : Prop :=
  ∀ (p : Payload) (s : State) (b : List Byte), b = 0xAA#8 :: 0x04#8 :: p.toList → ∃ ctrlTemp,
    exec (.frameK4 p) s = .next (s.withResponse ⟨.ok, false, .known4 ctrlTemp⟩) ∧
    exec (.dec b) s = .next (s.withResponse ⟨.ok, false, .known4 ctrlTemp⟩) ∧
    b[s.config.layout.off .ctrlTemp]? = some ctrlTemp

/-- R128: FRAME.K13. -/
def Obligations.DecodeKind13ExtractsItsFields : Prop :=
  ∀ (p : Payload) (s : State) (b : List Byte), b = 0xAA#8 :: 0x0D#8 :: p.toList → ∃ motorTemp throttle,
    exec (.frameK13 p) s = .next (s.withResponse ⟨.ok, false, .known13 motorTemp throttle⟩) ∧
    exec (.dec b) s = .next (s.withResponse ⟨.ok, false, .known13 motorTemp throttle⟩) ∧
    b[s.config.layout.off .motorTemp]? = some motorTemp ∧
    b[s.config.layout.off .throttle]? = some (throttle.extractLsb' 8 8) ∧
    b[s.config.layout.off .throttle + 1]? = some (throttle.extractLsb' 0 8)

/-- R130: an unknown kind succeeds with its 14 payload bytes unchanged and in order. -/
def Obligations.DecodeUnknownKindKeepsPayload : Prop :=
  ∀ (k : Byte) (p : Payload) (s : State), k ∉ [0x00#8, 0x01#8, 0x04#8, 0x0D#8] →
    exec (.frameUnknown k p) s = .next (s.withResponse ⟨.okUnknownKind, false, .unknown k p⟩) ∧
    exec (.dec (0xAA#8 :: k :: p.toList)) s = .next (s.withResponse ⟨.okUnknownKind, false, .unknown k p⟩) ∧
    decodeInput s.config.layout (0xAA#8 :: k :: p.toList) = .unknown k p ∧ Status.okUnknownKind.code = 0x01#8

/-- R78, R120: a DEC does what the FRAME row that its input selects does, and so does a step on a DEC command. -/
def Obligations.DecRunsTheFrameRowOfItsInput : Prop :=
  ∀ (b : List Byte) (s : State), exec (.dec b) s = exec (decodeFrame b) s ∧
    ∀ es, b.length ≤ 255 → s.input = .present (0x02#8 :: BitVec.ofNat 8 b.length :: b) :: es →
      step s = exec (decodeFrame b) (s.withInput es)

/-- R129: the unused payload bytes of a known kind are not read, and none of them is an error. -/
def Obligations.DecodeIgnoresUnusedBytes : Prop :=
  ∀ (L : Layout) (f g : Frame), f[0] = g[0] → f[1] = g[1] → knownKind f[1] = true →
    (∀ j (h : j < 16), Occupied L f[1] j → f[j] = g[j]) →
    decodeInput L f.toList = decodeInput L g.toList ∧
    (f[0] = 0xAA#8 → statusOf (decodeInput L f.toList) = .ok)

/-- R133: decode after encode, for every well-formed LAYOUT. -/
def Obligations.DecodeAfterEncodeIsIdentity : Prop :=
  ∀ (L : Layout) (v : ValueBlock),
    decodeInput L (encodeFrame L 0x00#8 v).toList = .known0 v.gear v.rpm v.iq v.id ∧
    decodeInput L (encodeFrame L 0x01#8 v).toList = .known1 v.voltage ∧
    decodeInput L (encodeFrame L 0x04#8 v).toList = .known4 v.ctrlTemp ∧
    decodeInput L (encodeFrame L 0x0D#8 v).toList = .known13 v.motorTemp v.throttle ∧
    ∀ k, k ∉ [0x00#8, 0x01#8, 0x04#8, 0x0D#8] →
      decodeInput L (encodeFrame L k v).toList = .unknown k (Vector.replicate 14 0x00#8)

/-- R209: if the peer's encoder uses another LAYOUT, its frames of a known kind still decode without error. -/
def Obligations.LayoutDisagreementIsNotDetected : Prop :=
  ∀ (L L' : Layout) (k : Byte) (v : ValueBlock), k ∈ [0x00#8, 0x01#8, 0x04#8, 0x0D#8] →
    statusOf (decodeInput L' (encodeFrame L k v).toList) = .ok

/-- R134: encode after decode of a known kind keeps every used byte and zeroes every unused one, so it is the identity
exactly on frames whose unused bytes are zero; for an unknown kind the payload is not restored but zero-filled. -/
def Obligations.EncodeAfterDecodeZeroesUnusedBytes : Prop :=
  ∀ (L : Layout) (f : Frame) (v : ValueBlock), f[0] = 0xAA#8 →
    (decodeInput L f.toList = .known0 v.gear v.rpm v.iq v.id ∨ decodeInput L f.toList = .known1 v.voltage ∨
      decodeInput L f.toList = .known4 v.ctrlTemp ∨ decodeInput L f.toList = .known13 v.motorTemp v.throttle →
      (∀ j (h : j < 16), Occupied L f[1] j ∨ j < 2 → (encodeFrame L f[1] v)[j] = f[j]) ∧
      (∀ j (h : j < 16), 2 ≤ j → ¬Occupied L f[1] j → (encodeFrame L f[1] v)[j] = 0x00#8) ∧
      (encodeFrame L f[1] v = f ↔ ∀ j (h : j < 16), 2 ≤ j → ¬Occupied L f[1] j → f[j] = 0x00#8)) ∧
    (knownKind f[1] = false →
      decodeInput L f.toList = .unknown f[1] (payloadOf f) ∧
      (encodeFrame L f[1] v).toList = (0xAA#8 : Byte) :: f[1] :: List.replicate 14 (0x00#8 : Byte))

/-! ### The fold family -/

/-- R151, R152: with FOLD_EN = 1, the fold row of a known kind writes every field of its group from the frame's decode
result, sets its valid flag, writes nothing else, and answers the result with folded = 1. -/
def Obligations.DecfFoldsAKnownKind : Prop :=
  ∀ (p : Payload) (s : State), s.ctrl.foldEn = true →
    (∃ gear rpm iq id,
      decodeInput s.config.layout (0xAA#8 :: 0x00#8 :: p.toList) = .known0 gear rpm iq id ∧
      exec (.decfK0 p) s = .next ((s.withTrb { s.trb with
        valid0 := true, gear := some gear, rpm := some rpm, iq := some iq, id := some id }).withResponse
          ⟨.ok, true, .known0 gear rpm iq id⟩)) ∧
    (∃ voltage,
      decodeInput s.config.layout (0xAA#8 :: 0x01#8 :: p.toList) = .known1 voltage ∧
      exec (.decfK1 p) s = .next ((s.withTrb { s.trb with valid1 := true, voltage := some voltage }).withResponse
        ⟨.ok, true, .known1 voltage⟩)) ∧
    (∃ ctrlTemp,
      decodeInput s.config.layout (0xAA#8 :: 0x04#8 :: p.toList) = .known4 ctrlTemp ∧
      exec (.decfK4 p) s = .next ((s.withTrb { s.trb with valid4 := true, ctrlTemp := some ctrlTemp }).withResponse
        ⟨.ok, true, .known4 ctrlTemp⟩)) ∧
    (∃ motorTemp throttle,
      decodeInput s.config.layout (0xAA#8 :: 0x0D#8 :: p.toList) = .known13 motorTemp throttle ∧
      exec (.decfK13 p) s = .next ((s.withTrb { s.trb with
        valid13 := true, motorTemp := some motorTemp, throttle := some throttle }).withResponse
          ⟨.ok, true, .known13 motorTemp throttle⟩))

/-- R78, R152: a DECF.K* row is a refinement of row DECF. -/
def Obligations.FoldRowsRefineDecf : Prop :=
  ∀ (p : Payload) (s : State),
    exec (.decfK0 p) s = exec (.decf (0xAA#8 :: 0x00#8 :: p.toList)) s ∧
    exec (.decfK1 p) s = exec (.decf (0xAA#8 :: 0x01#8 :: p.toList)) s ∧
    exec (.decfK4 p) s = exec (.decf (0xAA#8 :: 0x04#8 :: p.toList)) s ∧
    exec (.decfK13 p) s = exec (.decf (0xAA#8 :: 0x0D#8 :: p.toList)) s

/-- R153: a DECF with FOLD_EN = 0 returns what DEC returns, with folded = 0, and writes no TRB field and no valid flag. -/
def Obligations.DecfWithoutFoldEnIsDec : Prop :=
  ∀ (i : Instr) (b : List Byte) (s : State), isDecf i = true → decodeInputOf i = some b → s.ctrl.foldEn = false →
    ∃ r : Response, r.folded = false ∧ exec (.dec b) s = .next (s.withResponse r) ∧ exec i s = .next (s.withResponse r)

/-- R154, R27: a DECF that ends in an error or decodes an unknown kind returns what DEC returns and writes no state,
whatever FOLD_EN is. -/
def Obligations.DecfOfErrorOrUnknownWritesNothing : Prop :=
  ∀ (b : List Byte) (s : State),
    b.length ≠ 16 ∨ b[0]? ≠ some 0xAA#8 ∨ (∃ k, b[1]? = some k ∧ k ∉ [0x00#8, 0x01#8, 0x04#8, 0x0D#8]) →
    ∃ r : Response, r.folded = false ∧ exec (.dec b) s = .next (s.withResponse r) ∧
      exec (.decf b) s = .next (s.withResponse r) ∧
      (b.length ≠ 16 → r.status = .errWrongLength) ∧
      (b.length = 16 → b[0]? ≠ some 0xAA#8 → r.status = .errBadHeader) ∧
      (b.length = 16 → b[0]? = some 0xAA#8 → r.status = .okUnknownKind)

/-- R59: folding the same frame twice leaves the TRB as folding it once, and answers the same. -/
def Obligations.DecfIsIdempotentOnTheBank : Prop :=
  ∀ (i : Instr) (s : State), isDecf i = true → ∃ t u r, exec i s = .next t ∧ exec i t = .next u ∧
    u.trb = t.trb ∧ u.ctrl = s.ctrl ∧ t.responses = s.responses ++ [r] ∧ u.responses = t.responses ++ [r]

/-- R159: streaming fidelity, for every LAYOUT and every gear, iq and id in the kind-0 frame. -/
def Obligations.StreamingFidelity : Prop :=
  ∀ (s : State) (m : Byte) (v w : ValueBlock), s.ctrl.foldEn = true → s.trb.valid13 = true →
    s.trb.motorTemp = some m → v.voltage = 900 → w.rpm = 1200 →
    ∃ t u, exec (.decf (encodeFrame s.config.layout 0x01#8 v).toList) s = .next t ∧
      exec (.decf (encodeFrame s.config.layout 0x00#8 w).toList) t = .next u ∧
      u.trb.voltage = some 900 ∧ u.trb.rpm = some 1200 ∧ u.trb.motorTemp = some m ∧ u.trb.valid13 = true ∧
      u.trb.valid0 = true ∧ u.trb.valid1 = true ∧ u.trb.throttle = s.trb.throttle ∧
      u.trb.ctrlTemp = s.trb.ctrlTemp ∧ u.trb.valid4 = s.trb.valid4 ∧
      fieldPhysical s.config.rpmSigned .voltage 900 = 90

/-- R161: a WRCTL takes effect for the DECF after it and not for the DECF before it, whichever way it sets FOLD_EN: the one
before it folds as FOLD_EN was, the one after it as bit 0 of the value written says; the WRCTL itself keeps the TRB. -/
def Obligations.WrctlOrdersFolds : Prop :=
  ∀ (s : State) (value : Byte) (v : ValueBlock) (k : Byte) (b : List Byte), k ∈ [0x00#8, 0x01#8, 0x04#8, 0x0D#8] →
    b = (encodeFrame s.config.layout k v).toList →
    (∃ t u r, exec (.decf b) s = .next t ∧ t.responses = s.responses ++ [r] ∧ exec (.wrctl value) t = .next u ∧
      r.folded = s.ctrl.foldEn ∧ u.trb = t.trb ∧
      t.trb = if s.ctrl.foldEn then foldResult s.trb (decodeInput s.config.layout b) else s.trb) ∧
    (∃ t u r, exec (.wrctl value) s = .next t ∧ exec (.decf b) t = .next u ∧ u.responses = t.responses ++ [r] ∧
      r.folded = value.getLsbD 0 ∧ t.trb = s.trb ∧
      u.trb = if value.getLsbD 0 then foldResult s.trb (decodeInput s.config.layout b) else s.trb)

/-! ### The register commands -/

/-- R155, R156: RDT is the snapshot of the bank, bit by bit of the mask and field by field of V; it writes no state. -/
def Obligations.RdtReturnsTheSnapshot : Prop :=
  ∀ s : State, ∃ (mask : Byte) (v : Snapshot),
    exec .rdt s = .next (s.withResponse ⟨.ok, false, .telemetry mask v⟩) ∧
    mask.getLsbD 0 = s.trb.valid0 ∧ mask.getLsbD 1 = s.trb.valid1 ∧ mask.getLsbD 2 = s.trb.valid4 ∧
    mask.getLsbD 3 = s.trb.valid13 ∧ mask.extractLsb' 4 4 = 0 ∧
    (s.trb.valid0 = true → v.gear = s.trb.gear ∧ v.rpm = s.trb.rpm ∧ v.iq = s.trb.iq ∧ v.id = s.trb.id) ∧
    (s.trb.valid0 = false → v.gear = none ∧ v.rpm = none ∧ v.iq = none ∧ v.id = none) ∧
    (s.trb.valid1 = true → v.voltage = s.trb.voltage) ∧ (s.trb.valid1 = false → v.voltage = none) ∧
    (s.trb.valid4 = true → v.ctrlTemp = s.trb.ctrlTemp) ∧ (s.trb.valid4 = false → v.ctrlTemp = none) ∧
    (s.trb.valid13 = true → v.motorTemp = s.trb.motorTemp ∧ v.throttle = s.trb.throttle) ∧
    (s.trb.valid13 = false → v.motorTemp = none ∧ v.throttle = none)

/-- R157, R158: CLR invalidates every group, leaves CTRL, and makes the bank equal to the bank after reset. -/
def Obligations.ClrRestoresTheResetBank : Prop :=
  ∀ s : State, exec .clr s = .next ((s.withTrb State.reset.trb).withResponse ⟨.ok, false, .empty⟩) ∧
    ((s.withTrb State.reset.trb).withResponse ⟨.ok, false, .empty⟩).ctrl = s.ctrl ∧
    State.reset.trb = ⟨false, false, false, false, none, none, none, none, none, none, none, none⟩

/-- R160, R32: WRCTL stores bit 0 of its operand as FOLD_EN and ignores bits 7:1. -/
def Obligations.WrctlWritesFoldEn : Prop :=
  ∀ (v : Byte) (s : State),
    decodeCommand [0x06#8, v] = .ok (.wrctl v, []) ∧
    exec (.wrctl v) s = .next ((s.withCtrl ⟨v.getLsbD 0⟩).withResponse ⟨.ok, false, .empty⟩) ∧
    (⟨v.getLsbD 0⟩ : Ctrl).toByte = v &&& 0x01#8

/-- R162, R30: RDCTL returns CTRL; bits 7:1 of the returned byte are 0; after reset it is 0x00. -/
def Obligations.RdctlReturnsCtrl : Prop :=
  (∀ s : State, exec .rdctl s = .next (s.withResponse ⟨.ok, false, .ctrl (if s.ctrl.foldEn then 0x01#8 else 0x00#8)⟩)) ∧
  exec .rdctl State.reset = .next (State.reset.withResponse ⟨.ok, false, .ctrl 0x00#8⟩) ∧
  decodeCommand [0x07#8] = .ok (.rdctl, [])

/-- R184: an illegal opcode is a command of one byte: it answers ERR_ILLEGAL_CMD, changes no state, and the next byte
presented is the opcode of the next command. -/
def Obligations.IllegalOpcodeIsAnsweredAlone : Prop :=
  ∀ (op : Byte) (rest : List Byte) (es : List HostEvent) (s : State), op = 0x00#8 ∨ 0x08#8 ≤ op →
    decodeCommand (op :: rest) = .ok (.illegal op, rest) ∧
    exec (.illegal op) s = .next (s.withResponse ⟨.errIllegalCmd, false, .empty⟩) ∧
    (s.input = .present [op] :: es →
      step s = .next ((s.withInput es).withResponse ⟨.errIllegalCmd, false, .empty⟩) ∧
      ∀ bytes es' j, es = .present bytes :: es' → decodeCommand bytes = .ok (j, []) →
        step ((s.withInput es).withResponse ⟨.errIllegalCmd, false, .empty⟩) =
          exec j ((s.withInput es').withResponse ⟨.errIllegalCmd, false, .empty⟩))

/-! ### Responses and errors -/

/-- R180, R183: the status of a response and the rows that raise each code. -/
def Obligations.StatusesComeFromTheirRows : Prop :=
  ∀ (i : Instr) (s t : State) (r : Response), i.wf = true → exec i s = .next t → t.responses = s.responses ++ [r] →
    (r.status = .errIllegalCmd ↔ ∃ op, i = .illegal op) ∧
    (r.status = .errWrongLength ↔ ∃ b, decodeInputOf i = some b ∧ b.length ≠ 16) ∧
    (r.status = .errBadHeader ↔ ∃ b, decodeInputOf i = some b ∧ b.length = 16 ∧ b[0]? ≠ some 0xAA#8) ∧
    (r.status = .okUnknownKind ↔
      ∃ b, decodeInputOf i = some b ∧ b.length = 16 ∧ b[0]? = some 0xAA#8 ∧ knownGroup b = none) ∧
    [Status.ok, .okUnknownKind, .errWrongLength, .errBadHeader, .errIllegalCmd].map Status.code =
      [0x00#8, 0x01#8, 0x02#8, 0x03#8, 0x04#8]

/-- R13, R186: a command that answers an error has no data and changes nothing. -/
def Obligations.ErrorsChangeNoState : Prop :=
  ∀ (i : Instr) (s t : State) (r : Response), exec i s = .next t → t.responses = s.responses ++ [r] →
    r.status = .errWrongLength ∨ r.status = .errBadHeader ∨ r.status = .errIllegalCmd →
      r.data = .empty ∧ r.folded = false ∧ t = s.withResponse r

/-- R35: folded is 1 exactly when the command was a DECF that wrote the TRB. -/
def Obligations.FoldedFlagMarksAFold : Prop :=
  ∀ (i : Instr) (s t : State) (r : Response), exec i s = .next t → t.responses = s.responses ++ [r] →
    (r.folded = true ↔ ∃ G, FoldsGroup i s G)

/-- R87: the bytes of responses: status, flags, then the data of each case, big-endian, and so their lengths. What a byte
without a value reads as is `none`. -/
def Obligations.ResponseLengths : Prop :=
  ∀ (i : Instr) (s t : State) (r : Response), i.wf = true → exec i s = .next t → t.responses = s.responses ++ [r] →
    r.bytes[0]? = some (some r.status.code) ∧
    r.bytes[1]? = some (some (if r.folded then 0x01#8 else 0x00#8)) ∧
    (isEnc i = true → r.bytes.length = 18 ∧
      ∃ f : Frame, r.data = .frame f ∧ r.bytes.drop 2 = f.toList.map some) ∧
    (∀ b G, decodeInputOf i = some b → knownGroup b = some G →
      r.bytes[2]? = some (some G.kind) ∧
      (G = .g0 → r.bytes.length = 10 ∧ ∃ gear rpm iq id, r.data = .known0 gear rpm iq id ∧
        r.bytes.drop 2 = [0x00#8, gear, rpm.extractLsb' 8 8, rpm.extractLsb' 0 8, iq.extractLsb' 8 8,
          iq.extractLsb' 0 8, id.extractLsb' 8 8, id.extractLsb' 0 8].map some) ∧
      (G = .g1 → r.bytes.length = 5 ∧ ∃ voltage, r.data = .known1 voltage ∧
        r.bytes.drop 2 = [0x01#8, voltage.extractLsb' 8 8, voltage.extractLsb' 0 8].map some) ∧
      (G = .g4 → r.bytes.length = 4 ∧ ∃ ctrlTemp, r.data = .known4 ctrlTemp ∧
        r.bytes.drop 2 = [0x04#8, ctrlTemp].map some) ∧
      (G = .g13 → r.bytes.length = 6 ∧ ∃ motorTemp throttle, r.data = .known13 motorTemp throttle ∧
        r.bytes.drop 2 = [0x0D#8, motorTemp, throttle.extractLsb' 8 8, throttle.extractLsb' 0 8].map some)) ∧
    (r.status = .okUnknownKind → r.bytes.length = 17 ∧
      ∃ (k : Byte) (p : Payload), decodeInputOf i = some (0xAA#8 :: k :: p.toList) ∧ r.data = .unknown k p ∧
        r.bytes.drop 2 = (k :: p.toList).map some) ∧
    (i = .rdt → r.bytes.length = 16 ∧ ∃ (mask : Byte) (v : Snapshot), r.data = .telemetry mask v ∧
      r.bytes.drop 2 = [some mask, v.gear, v.rpm.map (·.extractLsb' 8 8), v.rpm.map (·.extractLsb' 0 8),
        v.iq.map (·.extractLsb' 8 8), v.iq.map (·.extractLsb' 0 8), v.id.map (·.extractLsb' 8 8),
        v.id.map (·.extractLsb' 0 8), v.voltage.map (·.extractLsb' 8 8), v.voltage.map (·.extractLsb' 0 8),
        v.ctrlTemp, v.motorTemp, v.throttle.map (·.extractLsb' 8 8), v.throttle.map (·.extractLsb' 0 8)] ∧
      mask.getLsbD 0 = s.trb.valid0 ∧ mask.getLsbD 1 = s.trb.valid1 ∧ mask.getLsbD 2 = s.trb.valid4 ∧
      mask.getLsbD 3 = s.trb.valid13 ∧ mask.extractLsb' 4 4 = 0 ∧
      (s.trb.valid0 = false → (r.bytes.drop 3).take 7 = List.replicate 7 none) ∧
      (s.trb.valid1 = false → (r.bytes.drop 10).take 2 = List.replicate 2 none) ∧
      (s.trb.valid4 = false → r.bytes[12]? = some none) ∧
      (s.trb.valid13 = false → r.bytes.drop 13 = List.replicate 3 none)) ∧
    (i = .rdctl → r.bytes.length = 3 ∧ r.bytes.drop 2 = [some (if s.ctrl.foldEn then 0x01#8 else 0x00#8)]) ∧
    (i = .clr ∨ (∃ v, i = .wrctl v) ∨ r.status = .errWrongLength ∨ r.status = .errBadHeader ∨
      r.status = .errIllegalCmd → r.bytes.length = 2)

/-! ### Reset and building an instance -/

/-- R28, R33, R200: the state after reset; the values of the configuration are the model's (log 4, log 5) and not stated. -/
def Obligations.ResetLeavesBankInvalidAndFoldingOff : Prop :=
  State.reset.trb = ⟨false, false, false, false, none, none, none, none, none, none, none, none⟩ ∧
  State.reset.ctrl.toByte = 0x00#8 ∧ State.reset.ctrl.foldEn = false

/-- R200, R201, R189: a reset event takes one step, sets TRB and CTRL to their reset values, keeps the configuration and
answers nothing. -/
def Obligations.ResetEventRestoresTrbAndCtrl : Prop :=
  ∀ (s : State) (es : List HostEvent), s.input = .reset :: es → ∃ t, step s = .next t ∧
    t.trb = ⟨false, false, false, false, none, none, none, none, none, none, none, none⟩ ∧
    t.ctrl.toByte = 0x00#8 ∧ t.config = s.config ∧ t.responses = s.responses ∧ t.input = es

/-- R76, R185: building an instance is refused exactly for an ill-formed LAYOUT, and LAYOUT_DEFAULT is well-formed. That a
built instance has TRB and CTRL at their reset values before the first reset is the model's choice, log 16. -/
def Obligations.BuildRefusesIllFormedLayout : Prop :=
  (∀ (t : LayoutTable) (rpmSigned : Bool),
    (¬LayoutWellFormed t → State.build t rpmSigned = .refused .illFormedLayout) ∧
    (LayoutWellFormed t → ∃ s, State.build t rpmSigned = .next s ∧ s.config.layout.table = t ∧
      s.config.rpmSigned = rpmSigned ∧ s.trb = State.reset.trb ∧ s.ctrl = State.reset.ctrl)) ∧
  LayoutWellFormed layoutDefaultTable

/-! ### Whole-machine rules -/

/-- R23: the invariant holds after reset. -/
def Obligations.ResetBankIsConsistent : Prop := State.reset.Inv

/-- R23: every step keeps it: a group's fields hold values exactly when its valid flag is 1. -/
def Obligations.StepKeepsBankConsistent : Prop :=
  ∀ s t : State, s.Inv → step s = .next t → t.Inv

/-- R26, R21: a group keeps its valid flag and its fields across every step but a reset, a CLR and a fold of its own kind. -/
def Obligations.GroupKeepsItsLastFold : Prop :=
  ∀ (s t : State) (G : Group), step s = .next t →
    (∀ es, s.input ≠ .reset :: es) →
    (∀ bytes es i rest, s.input = .present bytes :: es → decodeCommand bytes = .ok (i, rest) →
      i ≠ .clr ∧ ¬FoldsGroup i s G) →
    SameGroup t.trb s.trb G

/-- R25, R59: what each instruction may write: only DECF and CLR write the TRB, only WRCTL writes CTRL, and every other
instruction, ENC, DEC and its FRAME rows, RDT, RDCTL and ILLEGAL, changes nothing but the response log. -/
def Obligations.ReadsHaveNoSideEffect : Prop :=
  ∀ (i : Instr) (s : State), ∃ t r, exec i s = .next t ∧ t.responses = s.responses ++ [r] ∧
    (isDecf i = false → i ≠ .clr → t.trb = s.trb) ∧
    ((∀ v, i ≠ .wrctl v) → t.ctrl = s.ctrl) ∧
    (isDecf i = false → i ≠ .clr → (∀ v, i ≠ .wrctl v) → t = s.withResponse r)

/-- R7, R29, R37: an instruction's effect and response depend only on LAYOUT, the TRB and CTRL: not on RPM_SIGNED, on
earlier responses, or on what the host presents later. -/
def Obligations.NothingHiddenIsRead : Prop :=
  ∀ (i : Instr) (s s' : State), s.config.layout = s'.config.layout → s.trb = s'.trb → s.ctrl = s'.ctrl →
    ∃ t t' r, exec i s = .next t ∧ exec i s' = .next t' ∧ t.trb = t'.trb ∧ t.ctrl = t'.ctrl ∧
      t.responses = s.responses ++ [r] ∧ t'.responses = s'.responses ++ [r]

/-- R23, R185: a consumer's read faults exactly while its group is invalid, and otherwise gives the value held. -/
def Obligations.ConsumerReadFaultsOnInvalidGroup : Prop :=
  ∀ (s : State) (F : Field), s.Inv →
    (consumerRead s F = .error (.invalidGroupRead F) ↔ groupValid s.trb F.owner = false) ∧
    (groupValid s.trb F.owner = true → ∃ v, consumerRead s F = .ok v ∧ bankField s.trb F = some v)

/-! ### What the bits mean -/

/-- R11: MemRead and MemWrite of one and of two bytes, the high byte at the lower offset, and no other byte written. -/
def Obligations.MemReadAndMemWriteAreBigEndian : Prop :=
  (∀ (b : Frame) (o : Nat) (h : o < 16) (x : Byte),
    memRead1 b o h = b[o] ∧ (memWrite1 b o x h)[o] = x ∧ memRead1 (memWrite1 b o x h) o h = x ∧
    ∀ j (hj : j < 16), j ≠ o → (memWrite1 b o x h)[j] = b[j]) ∧
  (∀ (b : Frame) (o : Nat) (h : o + 1 < 16) (v : Half),
    (memRead2 b o h).extractLsb' 8 8 = b[o] ∧ (memRead2 b o h).extractLsb' 0 8 = b[o + 1] ∧
    (memWrite2 b o v h)[o] = v.extractLsb' 8 8 ∧ (memWrite2 b o v h)[o + 1] = v.extractLsb' 0 8 ∧
    memRead2 (memWrite2 b o v h) o h = v ∧
    ∀ j (hj : j < 16), j ≠ o → j ≠ o + 1 → (memWrite2 b o v h)[j] = b[j])

/-- R12, R85: the front end accepts exactly the integers of a field's range, and the pattern it gives means that integer;
what the assembler accepts is what a reading of the field admits, and its pattern means that integer in that reading (R7,
log 15). -/
def Obligations.FrontEndNeverWraps : Prop :=
  ∀ (rpmSigned : Bool) (F : Field) (z : Int),
    (∀ v, fieldOfInt rpmSigned F z = some v → fieldInt rpmSigned F v = z) ∧
    (fieldOfInt rpmSigned F z = none ↔
      if F = .ctrlTemp ∨ F = .motorTemp then z < -128 ∨ 127 < z
      else if F = .gear then z < 0 ∨ 255 < z
      else if F = .iq ∨ F = .id ∨ (F = .rpm ∧ rpmSigned = true) then z < -32768 ∨ 32767 < z
      else z < 0 ∨ 65535 < z) ∧
    (∀ v, spelledValue F z = some v → ∃ signed, fieldOfInt signed F z = some v ∧ fieldInt signed F v = z) ∧
    (spelledValue F z = none ↔ ∀ signed, fieldOfInt signed F z = none)

/-- R132: the physical values, and the ranges of voltage and current. -/
def Obligations.PhysicalValuesAreScaledByDivision : Prop :=
  ∀ (rpmSigned : Bool) (v : Half) (c : Byte),
    fieldPhysical rpmSigned .voltage v = (v.toNat : Rat) / 10 ∧ fieldPhysical rpmSigned .voltage v ≤ 65535 / 10 ∧
    fieldPhysical rpmSigned .iq v = (v.toInt : Rat) / 100 ∧ fieldPhysical rpmSigned .id v = (v.toInt : Rat) / 100 ∧
    -(32768 : Rat) / 100 ≤ fieldPhysical rpmSigned .iq v ∧ fieldPhysical rpmSigned .iq v ≤ 32767 / 100 ∧
    -(32768 : Rat) / 100 ≤ fieldPhysical rpmSigned .id v ∧ fieldPhysical rpmSigned .id v ≤ 32767 / 100 ∧
    fieldPhysical rpmSigned .ctrlTemp c = (c.toInt : Rat) ∧ fieldPhysical rpmSigned .motorTemp c = (c.toInt : Rat) ∧
    fieldPhysical true .rpm v = (v.toInt : Rat) ∧ fieldPhysical false .rpm v = (v.toNat : Rat) ∧
    fieldPhysical rpmSigned .throttle v = (v.toNat : Rat) ∧ fieldPhysical rpmSigned .gear c = (c.toNat : Rat)

/-- R90: what the assembler accepts is a well-formed command: no row but a CMD row, no kind in the wrong row, and no list
longer than 255 bytes. -/
def Obligations.AssembledCommandsAreWellFormed : Prop :=
  ∀ (L : Layout) (line : List Char) (i : Instr), assembleLine L line = .ok (some i) →
    i.wf = true ∧ i.format = .cmd

/-! ### Several links, and the host's moves -/

/-- R8, R194, R36: a step of one instance is that instance's own step and a host's move is a move on its own instance, which
is refused exactly while a command there is unanswered and the move is another command; no other instance changes. -/
def Obligations.LinksShareNothing : Prop :=
  ∀ (y z : System) (k : Fin y.links.length),
    (y.stepLink k = .next z →
      step y.links[k] = .next (z.links.getD k y.links[k]) ∧ z.nLinks = y.nLinks ∧
      ∀ j, j ≠ k.val → z.links[j]? = y.links[j]?) ∧
    ∀ e : HostEvent,
      (y.present k e = .next z →
        z.links[k.val]? = some (y.links[k].withInput (y.links[k].input ++ [e])) ∧ z.nLinks = y.nLinks ∧
        ∀ j, j ≠ k.val → z.links[j]? = y.links[j]?) ∧
      (y.present k e = .refused .commandOverlap ↔
        (∃ bytes, e = .present bytes) ∧ ∃ bytes, HostEvent.present bytes ∈ y.links[k].input) ∧
      (y.present k e ≠ .refused .commandOverlap → ∃ x, y.present k e = .next x)
end

