-- ==== Sys2Proof/Laws/Frame.lean ====
section
/-! SUPPORT. The bytes of frames and payloads, byte order, and the read-after-write laws of MemRead and MemWrite. -/

namespace Sys2Proof

@[simp] theorem frameOfList_toList (b : List Byte) (h : b.length = 16) : (frameOfList b h).toList = b := by
  simp [frameOfList, Vector.toList]

@[simp] theorem payloadOfList_toList (b : List Byte) (h : b.length = 14) : (payloadOfList b h).toList = b := by
  simp [payloadOfList, Vector.toList]

@[simp] theorem tailOfList_toList (b : List Byte) (h : b.length = 15) : (tailOfList b h).toList = b := by
  simp [tailOfList, Vector.toList]

@[simp] theorem payloadOfList_of_toList (p : Payload) (h : p.toList.length = 14) : payloadOfList p.toList h = p := by
  apply Vector.toList_inj.mp; simp

@[simp] theorem tailOfList_of_toList (p : Vector Byte 15) (h : p.toList.length = 15) : tailOfList p.toList h = p := by
  apply Vector.toList_inj.mp; simp

@[simp] theorem frameOfList_of_toList (f : Frame) (h : f.toList.length = 16) : frameOfList f.toList h = f := by
  apply Vector.toList_inj.mp; simp

@[simp] theorem frameOfList_getElem (b : List Byte) (h : b.length = 16) (i : Nat) (hi : i < 16) :
    (frameOfList b h)[i] = b[i] := by
  simp [frameOfList]

/-- R10: a bit of `hi ++ lo`. -/
theorem joinBytes_getLsbD (h l : Byte) (i : Nat) :
    (joinBytes h l).getLsbD i = if i < 8 then l.getLsbD i else h.getLsbD (i - 8) :=
  BitVec.getLsbD_append (x := h) (y := l) (i := i)

theorem hiByte_getLsbD (v : Half) (i : Nat) (hi : i < 8) : (hiByte v).getLsbD i = v.getLsbD (8 + i) := by
  simp [hiByte, hi]

theorem loByte_getLsbD (v : Half) (i : Nat) (hi : i < 8) : (loByte v).getLsbD i = v.getLsbD i := by
  simp [loByte, hi]

@[simp] theorem joinBytes_hi_lo (v : Half) : joinBytes (hiByte v) (loByte v) = v := by
  apply BitVec.eq_of_getLsbD_eq
  intro i hi
  rw [joinBytes_getLsbD]
  split
  · rw [loByte_getLsbD _ _ (by omega)]
  · rw [hiByte_getLsbD _ _ (by omega), show 8 + (i - 8) = i by omega]

@[simp] theorem hiByte_join (h l : Byte) : hiByte (joinBytes h l) = h := by
  apply BitVec.eq_of_getLsbD_eq
  intro i hi
  rw [hiByte_getLsbD _ _ hi, joinBytes_getLsbD, if_neg (by omega), Nat.add_sub_cancel_left]

@[simp] theorem loByte_join (h l : Byte) : loByte (joinBytes h l) = l := by
  apply BitVec.eq_of_getLsbD_eq
  intro i hi
  rw [loByte_getLsbD _ _ hi, joinBytes_getLsbD, if_pos hi]

namespace Machine

@[simp] theorem frameOf_toList (h k : Byte) (p : Payload) : (frameOf h k p).toList = h :: k :: p.toList := by
  simp [frameOf]

@[simp] theorem frameOf_zero (h k : Byte) (p : Payload) : (frameOf h k p)[0] = h := by simp [frameOf]

@[simp] theorem frameOf_one (h k : Byte) (p : Payload) : (frameOf h k p)[1] = k := by simp [frameOf]

@[simp] theorem payloadOf_frameOf (h k : Byte) (p : Payload) : payloadOf (frameOf h k p) = p := by
  simp [payloadOf]

/-- A 16-byte list is the frame of its header, its kind and its payload. -/
theorem frameOfList_cons_cons (h k : Byte) (p : List Byte) (hl : (h :: k :: p).length = 16) (hp : p.length = 14) :
    frameOfList (h :: k :: p) hl = frameOf h k (payloadOfList p hp) := by
  apply Vector.toList_inj.mp; simp

/-- R11: a byte write reads back, and leaves every other byte alone. -/
theorem memWrite1_getElem (f : Frame) (o : Nat) (v : Byte) (h : o < 16) (i : Nat) (hi : i < 16) :
    (memWrite1 f o v h)[i] = if o = i then v else f[i] := by
  simp [memWrite1, Vector.getElem_set]

/-- R11: a two-byte write puts its high byte at the lower offset and leaves every other byte alone. -/
theorem memWrite2_getElem (f : Frame) (o : Nat) (v : Half) (h : o + 1 < 16) (i : Nat) (hi : i < 16) :
    (memWrite2 f o v h)[i] = if o + 1 = i then loByte v else if o = i then hiByte v else f[i] := by
  simp only [memWrite2, memWrite1_getElem]

theorem memRead1_eq (f : Frame) (o : Nat) (h : o < 16) : memRead1 f o h = f[o] := rfl

theorem memRead2_eq (f : Frame) (o : Nat) (h : o + 1 < 16) : memRead2 f o h = joinBytes f[o] f[o + 1] := rfl

/-- R102: the blank frame holds the header, the kind and zeros. -/
theorem blankFrame_getElem (k : Byte) (i : Nat) (hi : i < 16) :
    (blankFrame k)[i] = if 1 = i then k else if 0 = i then Config.header else 0x00#8 := by
  simp [blankFrame, Vector.getElem_set]

end Machine
end Sys2Proof
end

