-- ==== Sys2Proof/Laws/State.lean ====
section
/-! SUPPORT. One lemma per field and update of State, and of the register bank's updates, true by rfl. -/

namespace Sys2Proof.Machine

variable (s : State) (t : TRB) (c : Ctrl) (es : List HostEvent) (r : Response)

@[simp] theorem withTrb_config : (s.withTrb t).config = s.config := rfl
@[simp] theorem withTrb_trb : (s.withTrb t).trb = t := rfl
@[simp] theorem withTrb_ctrl : (s.withTrb t).ctrl = s.ctrl := rfl
@[simp] theorem withTrb_input : (s.withTrb t).input = s.input := rfl
@[simp] theorem withTrb_responses : (s.withTrb t).responses = s.responses := rfl

@[simp] theorem withCtrl_config : (s.withCtrl c).config = s.config := rfl
@[simp] theorem withCtrl_trb : (s.withCtrl c).trb = s.trb := rfl
@[simp] theorem withCtrl_ctrl : (s.withCtrl c).ctrl = c := rfl
@[simp] theorem withCtrl_input : (s.withCtrl c).input = s.input := rfl
@[simp] theorem withCtrl_responses : (s.withCtrl c).responses = s.responses := rfl

@[simp] theorem withInput_config : (s.withInput es).config = s.config := rfl
@[simp] theorem withInput_trb : (s.withInput es).trb = s.trb := rfl
@[simp] theorem withInput_ctrl : (s.withInput es).ctrl = s.ctrl := rfl
@[simp] theorem withInput_input : (s.withInput es).input = es := rfl
@[simp] theorem withInput_responses : (s.withInput es).responses = s.responses := rfl

@[simp] theorem withResponse_config : (s.withResponse r).config = s.config := rfl
@[simp] theorem withResponse_trb : (s.withResponse r).trb = s.trb := rfl
@[simp] theorem withResponse_ctrl : (s.withResponse r).ctrl = s.ctrl := rfl
@[simp] theorem withResponse_input : (s.withResponse r).input = s.input := rfl
@[simp] theorem withResponse_responses : (s.withResponse r).responses = s.responses ++ [r] := rfl

@[simp] theorem ofConfig_config (k : InstanceConfig) : (State.ofConfig k).config = k := rfl
@[simp] theorem ofConfig_trb (k : InstanceConfig) : (State.ofConfig k).trb = TRB.reset := rfl
@[simp] theorem ofConfig_ctrl (k : InstanceConfig) : (State.ofConfig k).ctrl = Ctrl.reset := rfl
@[simp] theorem ofConfig_input (k : InstanceConfig) : (State.ofConfig k).input = [] := rfl
@[simp] theorem ofConfig_responses (k : InstanceConfig) : (State.ofConfig k).responses = [] := rfl

/-- Writing back what is there changes nothing. -/
@[simp] theorem withTrb_self : s.withTrb s.trb = s := rfl
@[simp] theorem withCtrl_self : s.withCtrl s.ctrl = s := rfl
@[simp] theorem withInput_self : s.withInput s.input = s := rfl

@[simp] theorem bankField_gear : bankField t .gear = t.gear := rfl
@[simp] theorem bankField_rpm : bankField t .rpm = t.rpm := rfl
@[simp] theorem bankField_iq : bankField t .iq = t.iq := rfl
@[simp] theorem bankField_id : bankField t .id = t.id := rfl
@[simp] theorem bankField_voltage : bankField t .voltage = t.voltage := rfl
@[simp] theorem bankField_ctrlTemp : bankField t .ctrlTemp = t.ctrlTemp := rfl
@[simp] theorem bankField_motorTemp : bankField t .motorTemp = t.motorTemp := rfl
@[simp] theorem bankField_throttle : bankField t .throttle = t.throttle := rfl

@[simp] theorem groupValid_g0 : groupValid t .g0 = t.valid0 := rfl
@[simp] theorem groupValid_g1 : groupValid t .g1 = t.valid1 := rfl
@[simp] theorem groupValid_g4 : groupValid t .g4 = t.valid4 := rfl
@[simp] theorem groupValid_g13 : groupValid t .g13 = t.valid13 := rfl

/-- R157, R158: CLR's bank is the reset bank. -/
@[simp] theorem clearBank_eq : clearBank t = TRB.reset := rfl

end Sys2Proof.Machine
end

