-- ==== Sys2Proof/Laws/Ops.lean ====
section
/-! SUPPORT. One lemma per shared operation: everything it can do. Later proofs cite these and do not unfold the
operations again. -/

namespace Sys2Proof

/-- R72: `groupOf` answers a group exactly on that group's kind byte. -/
theorem groupOf_eq_some (k : Byte) (G : Group) : groupOf k = some G ↔ k = G.kind := by
  unfold groupOf
  constructor
  · intro h
    split at h <;> (try split at h) <;> (try split at h) <;> (try split at h) <;> simp_all [Group.kind] <;> subst h <;>
      rfl
  · rintro rfl
    cases G <;> decide

@[simp] theorem groupOf_kind (G : Group) : groupOf G.kind = some G := (groupOf_eq_some _ _).mpr rfl

/-- R72: an unknown kind is none of the four. -/
theorem groupOf_eq_none (k : Byte) : groupOf k = none ↔ ∀ G : Group, k ≠ G.kind := by
  constructor
  · intro h G hk
    subst hk
    simp at h
  · intro h
    cases hg : groupOf k with
    | none => rfl
    | some G => exact absurd ((groupOf_eq_some k G).mp hg) (h G)

theorem knownKind_iff (k : Byte) : knownKind k = true ↔ ∃ G : Group, k = G.kind := by
  unfold knownKind
  rw [Option.isSome_iff_exists]
  simp only [groupOf_eq_some]

theorem mem_all (F : Field) : F ∈ Field.all := by cases F <;> decide

/-- R101: the fields a kind owns. -/
theorem mem_fieldsOf (k : Byte) (F : Field) : F ∈ fieldsOf k ↔ F.owner.kind = k := by
  simp [fieldsOf, mem_all]

theorem fieldsOf_unknown (k : Byte) (h : groupOf k = none) : fieldsOf k = [] := by
  rw [List.eq_nil_iff_forall_not_mem]
  intro F hF
  exact (groupOf_eq_none k).mp h F.owner ((mem_fieldsOf k F).mp hF).symm

namespace Machine

/-- R13: a response is returned and nothing else changes. -/
@[simp] theorem respond_eq (s : State) (r : Response) : respond s r = .next (s.withResponse r) := rfl

/-- R186: an error is a response and nothing else changes. -/
@[simp] theorem raiseError_eq (s : State) (e : Status) :
    raiseError s e = .next (s.withResponse { status := e, folded := false, data := .empty }) := rfl

/-- R108: writing a field depends on that field of the value block alone. -/
theorem writeField_congr (L : Layout) (v v' : ValueBlock) (f : Frame) (F : Field)
    (h : getField v F = getField v' F) : writeField L v f F = writeField L v' f F := by
  cases F <;> simp only [getField] at h <;> simp [writeField, h]

/-- R101: a write of one field changes only the bytes of that field. -/
theorem writeField_outside (L : Layout) (v : ValueBlock) (f : Frame) (F : Field) (j : Nat) (hj : j < 16)
    (h : ¬(L.off F ≤ j ∧ j < L.off F + F.bytes)) : (writeField L v f F)[j] = f[j] := by
  cases F <;>
    simp only [writeField, memWrite1_getElem, memWrite2_getElem, Field.bytes, Field.width] at h ⊢ <;>
    repeat (rw [if_neg (by omega)])

/-- R77, R101: a field written reads back. -/
theorem readField_writeField (L : Layout) (v : ValueBlock) (f : Frame) (F : Field) :
    readField L (writeField L v f F) F = getField v F := by
  cases F <;> simp [readField, writeField, getField, memRead1_eq, memRead2_eq, memWrite1_getElem, memWrite2_getElem]

/-- R77: reading a field depends on its own bytes alone. -/
theorem readField_congr (L : Layout) (f g : Frame) (F : Field)
    (h : ∀ j (hj : j < 16), L.off F ≤ j → j < L.off F + F.bytes → f[j] = g[j]) :
    readField L f F = readField L g F := by
  have ha := L.off_add_bytes_le F
  cases F <;> simp only [Field.bytes, Field.width] at h ha <;>
    simp only [readField, memRead1_eq, memRead2_eq] <;>
    first
      | exact h _ _ (by omega) (by omega)
      | rw [h _ (by omega) (by omega) (by omega), h _ (by omega) (by omega) (by omega)]

/-- Writing fields leaves a byte outside all of them alone. -/
theorem foldl_writeField_outside (L : Layout) (v : ValueBlock) (Fs : List Field) (f : Frame) (j : Nat) (hj : j < 16)
    (h : ∀ F ∈ Fs, ¬(L.off F ≤ j ∧ j < L.off F + F.bytes)) : (Fs.foldl (writeField L v) f)[j] = f[j] := by
  induction Fs generalizing f with
  | nil => rfl
  | cons F Fs ih =>
    rw [List.foldl_cons, ih _ (fun G hG => h G (List.mem_cons_of_mem _ hG)),
      writeField_outside _ _ _ _ _ _ (h F List.mem_cons_self)]

/-- R102: the bytes of an encoded frame that no field of the kind occupies. -/
theorem encodeFrame_outside (L : Layout) (k : Byte) (v : ValueBlock) (j : Nat) (hj : j < 16)
    (h : ∀ F : Field, F.owner.kind = k → ¬(L.off F ≤ j ∧ j < L.off F + F.bytes)) :
    (encodeFrame L k v)[j] = if 1 = j then k else if 0 = j then Config.header else 0x00#8 := by
  rw [encodeFrame, foldl_writeField_outside _ _ _ _ _ _ (fun F hF => h F ((mem_fieldsOf k F).mp hF)),
    blankFrame_getElem]

@[simp] theorem encodeFrame_zero (L : Layout) (k : Byte) (v : ValueBlock) : (encodeFrame L k v)[0] = Config.header := by
  rw [encodeFrame_outside L k v 0 (by omega) (fun F _ h => by have := L.two_le_off F; omega)]
  rfl

@[simp] theorem encodeFrame_one (L : Layout) (k : Byte) (v : ValueBlock) : (encodeFrame L k v)[1] = k := by
  rw [encodeFrame_outside L k v 1 (by omega) (fun F _ h => by have := L.two_le_off F; omega)]
  rfl

/-- Reading a field after writes of other fields of its owner. -/
theorem readField_foldl_writeField (L : Layout) (v : ValueBlock) (Fs : List Field) (f : Frame) (F : Field)
    (h : ∀ G ∈ Fs, G ≠ F ∧ G.owner = F.owner) :
    readField L (Fs.foldl (writeField L v) f) F = readField L f F := by
  apply readField_congr
  intro j hj h1 h2
  apply foldl_writeField_outside
  intro G hG hb
  have := L.apart G F (h G hG).1 (h G hG).2
  omega

/-- R133, at one field: an encoded frame holds every field its kind owns. -/
theorem readField_encodeFrame (L : Layout) (v : ValueBlock) (F : Field) :
    readField L (encodeFrame L F.owner.kind v) F = getField v F := by
  have key : ∃ pre post, fieldsOf F.owner.kind = pre ++ F :: post ∧ ∀ G ∈ post, G ≠ F ∧ G.owner = F.owner := by
    cases F
    · exact ⟨[], [.rpm, .iq, .id], by decide, by decide⟩
    · exact ⟨[.gear], [.iq, .id], by decide, by decide⟩
    · exact ⟨[.gear, .rpm], [.id], by decide, by decide⟩
    · exact ⟨[.gear, .rpm, .iq], [], by decide, by decide⟩
    · exact ⟨[], [], by decide, by decide⟩
    · exact ⟨[], [], by decide, by decide⟩
    · exact ⟨[], [.throttle], by decide, by decide⟩
    · exact ⟨[.motorTemp], [], by decide, by decide⟩
  obtain ⟨pre, post, hs, hp⟩ := key
  rw [encodeFrame, hs, List.foldl_append, List.foldl_cons, readField_foldl_writeField _ _ _ _ _ hp,
    readField_writeField]

/-- R133: what a frame of each known kind gives back, field by field. -/
@[simp] theorem readField_encodeFrame_gear (L : Layout) (v : ValueBlock) :
    readField L (encodeFrame L 0x00#8 v) .gear = v.gear := readField_encodeFrame L v .gear
@[simp] theorem readField_encodeFrame_rpm (L : Layout) (v : ValueBlock) :
    readField L (encodeFrame L 0x00#8 v) .rpm = v.rpm := readField_encodeFrame L v .rpm
@[simp] theorem readField_encodeFrame_iq (L : Layout) (v : ValueBlock) :
    readField L (encodeFrame L 0x00#8 v) .iq = v.iq := readField_encodeFrame L v .iq
@[simp] theorem readField_encodeFrame_id (L : Layout) (v : ValueBlock) :
    readField L (encodeFrame L 0x00#8 v) .id = v.id := readField_encodeFrame L v .id
@[simp] theorem readField_encodeFrame_voltage (L : Layout) (v : ValueBlock) :
    readField L (encodeFrame L 0x01#8 v) .voltage = v.voltage := readField_encodeFrame L v .voltage
@[simp] theorem readField_encodeFrame_ctrlTemp (L : Layout) (v : ValueBlock) :
    readField L (encodeFrame L 0x04#8 v) .ctrlTemp = v.ctrlTemp := readField_encodeFrame L v .ctrlTemp
@[simp] theorem readField_encodeFrame_motorTemp (L : Layout) (v : ValueBlock) :
    readField L (encodeFrame L 0x0D#8 v) .motorTemp = v.motorTemp := readField_encodeFrame L v .motorTemp
@[simp] theorem readField_encodeFrame_throttle (L : Layout) (v : ValueBlock) :
    readField L (encodeFrame L 0x0D#8 v) .throttle = v.throttle := readField_encodeFrame L v .throttle

/-- R122: Decode of a wrong length. -/
theorem decodeInput_wrongLength (L : Layout) (b : List Byte) (h : b.length ≠ 16) :
    decodeInput L b = .errWrongLength := by
  simp [decodeInput, h]

/-- R123: Decode of a bad header. -/
theorem decodeInput_badHeader (L : Layout) (h : Byte) (b : List Byte) (hl : (h :: b).length = 16)
    (hh : h ≠ Config.header) : decodeInput L (h :: b) = .errBadHeader := by
  simp only [decodeInput, hl, dif_pos]
  rw [if_pos (by simpa using hh)]

/-- R124: Decode of a 16-byte input with the header is the extraction its kind selects. -/
theorem decodeInput_frame (L : Layout) (f : Frame) (h : f[0] = Config.header) :
    decodeInput L f.toList = extract L f := by
  simp [decodeInput, h]

theorem decodeInput_payload (L : Layout) (k : Byte) (p : Payload) :
    decodeInput L (0xAA#8 :: k :: p.toList) = extract L (frameOf Config.header k p) := by
  rw [← frameOf_toList, decodeInput_frame _ _ (frameOf_zero ..)]

/-- R124: the extraction of each known kind, and of an unknown one. -/
theorem extract_g0 (L : Layout) (f : Frame) (h : f[1] = 0x00#8) : extract L f = extract0 L f := by simp [extract, h, groupOf]
theorem extract_g1 (L : Layout) (f : Frame) (h : f[1] = 0x01#8) : extract L f = extract1 L f := by simp [extract, h, groupOf]
theorem extract_g4 (L : Layout) (f : Frame) (h : f[1] = 0x04#8) : extract L f = extract4 L f := by simp [extract, h, groupOf]
theorem extract_g13 (L : Layout) (f : Frame) (h : f[1] = 0x0D#8) : extract L f = extract13 L f := by simp [extract, h, groupOf]
theorem extract_unknown (L : Layout) (f : Frame) (h : groupOf f[1] = none) :
    extract L f = .unknown f[1] (payloadOf f) := by simp [extract, h]

/-- R150, R151: a DECF that folds. -/
theorem decodeAndFold_on (s : State) (r : DecodeResult) (h : s.ctrl.foldEn = true) (hk : isKnown r = true) :
    decodeAndFold s r = .next ((s.withTrb (foldResult s.trb r)).withResponse (responseOf r true)) := by
  simp [decodeAndFold, folds, h, hk]

/-- R153: a DECF with FOLD_EN = 0. -/
theorem decodeAndFold_off (s : State) (r : DecodeResult) (h : s.ctrl.foldEn = false) :
    decodeAndFold s r = .next (s.withResponse (responseOf r false)) := by
  simp [decodeAndFold, folds, h]

/-- R154: a DECF of an error or of an unknown kind. -/
theorem decodeAndFold_unknown (s : State) (r : DecodeResult) (hk : isKnown r = false) :
    decodeAndFold s r = .next (s.withResponse (responseOf r false)) := by
  simp [decodeAndFold, folds, hk]

/-- R87: a response's data bytes stand after its status and its flags. -/
@[simp] theorem Response.bytes_drop_two (r : Response) : r.bytes.drop 2 = r.data.bytes := rfl

/-- R87: the flags byte. -/
theorem flagsByte_eq (folded : Bool) : flagsByte folded = if folded then 0x01#8 else 0x00#8 := by cases folded <;> rfl

/-- R87: the one byte of a snapshot's 8-bit field. -/
theorem snap1_eq (x : Option Byte) : snap1 x = [x] := by cases x <;> rfl

/-- R87, R54: the two bytes of a snapshot's 16-bit field, the high byte first. -/
theorem snap2_eq (x : Option Half) : snap2 x = [x.map hiByte, x.map loByte] := by cases x <;> rfl

/-- R86, R87: the 13 bytes of V in an RDT response. -/
theorem Snapshot.bytes_eq (v : Snapshot) : v.bytes =
    [v.gear, v.rpm.map hiByte, v.rpm.map loByte, v.iq.map hiByte, v.iq.map loByte, v.id.map hiByte, v.id.map loByte,
     v.voltage.map hiByte, v.voltage.map loByte, v.ctrlTemp, v.motorTemp, v.throttle.map hiByte,
     v.throttle.map loByte] := by
  simp [Snapshot.bytes, snap1_eq, snap2_eq]

end Machine
end Sys2Proof
end

