-- ==== Sys2Proof/Laws/Decode.lean ====
section
/-! SUPPORT. One lemma per part of the decoders and the encoder, each way. -/

namespace Sys2Proof

/-- R72: the kinds that are none of the four known ones. -/
theorem groupOf_eq_none_iff_not_mem (k : Byte) : groupOf k = none ↔ k ∉ [0x00#8, 0x01#8, 0x04#8, 0x0D#8] := by
  simp only [List.mem_cons, List.not_mem_nil, or_false, not_or]
  constructor
  · intro h
    rw [groupOf_eq_none] at h
    exact ⟨h .g0, h .g1, h .g4, h .g13⟩
  · rintro ⟨h0, h1, h4, h13⟩
    simp [groupOf, h0, h1, h4, h13]

/-- R86: a value block read back from its bytes. -/
@[simp] theorem takeValueBlock_toBytes (v : ValueBlock) (rest : List Byte) :
    takeValueBlock (v.toBytes ++ rest) = some (v, rest) := by
  simp [takeValueBlock, ValueBlock.toBytes]

theorem takeValueBlock_eq_some (l rest : List Byte) (v : ValueBlock) (h : takeValueBlock l = some (v, rest)) :
    l = v.toBytes ++ rest := by
  unfold takeValueBlock at h
  split at h
  · simp only [Option.some.injEq, Prod.mk.injEq] at h
    obtain ⟨rfl, rfl⟩ := h
    simp [ValueBlock.toBytes]
  · simp at h

/-- R84: a decode input read back from its length byte and bytes. -/
theorem takeInput_inputBytes (b rest : List Byte) (h : b.length ≤ 255) :
    takeInput (inputBytes b ++ rest) = some (b, rest) := by
  have hn : (BitVec.ofNat 8 b.length).toNat = b.length := by rw [BitVec.toNat_ofNat]; omega
  simp [takeInput, inputBytes, -BitVec.toNat_ofNat, hn]

theorem takeInput_eq_some (l rest b : List Byte) (h : takeInput l = some (b, rest)) :
    l = inputBytes b ++ rest ∧ b.length ≤ 255 := by
  unfold takeInput at h
  split at h
  · split at h
    · rename_i n r hn
      simp only [Option.some.injEq, Prod.mk.injEq] at h
      obtain ⟨rfl, rfl⟩ := h
      have := n.isLt
      simp [inputBytes, hn]
      omega
    · simp at h
  · simp at h

/-- R84: the input bytes of a 16-byte frame. -/
theorem inputBytes_frame (k : Byte) (p : Payload) :
    inputBytes (0xAA#8 :: k :: p.toList) = 0x10#8 :: 0xAA#8 :: k :: p.toList := by
  simp [inputBytes]

/-- R78: the row of a frame of a known kind. -/
theorem decodeFrame_known (k : Byte) (G : Group) (p : Payload) (h : groupOf k = some G) :
    decodeFrame (0xAA#8 :: k :: p.toList) =
      match G with
      | .g0 => .frameK0 p
      | .g1 => .frameK1 p
      | .g4 => .frameK4 p
      | .g13 => .frameK13 p := by
  cases G <;> simp [decodeFrame, h]

theorem decodeFrame_unknown (k : Byte) (p : Payload) (h : groupOf k = none) :
    decodeFrame (0xAA#8 :: k :: p.toList) = .frameUnknown k p := by
  simp [decodeFrame, h]

/-- R78, R79: what a decode input is: of a wrong length, with a bad header, a frame of a known kind, or of an unknown
one. -/
theorem decodeFrame_cases (b : List Byte) :
    (b.length ≠ 16 ∧ decodeFrame b = .frameInvalidLength b) ∨
    (∃ h r, h ≠ 0xAA#8 ∧ b = h :: r.toList ∧ decodeFrame b = .frameBadHeader h r) ∨
    (∃ k, ∃ p : Payload, ∃ G, groupOf k = some G ∧ b = 0xAA#8 :: k :: p.toList) ∨
    (∃ k, ∃ p : Payload, groupOf k = none ∧ b = 0xAA#8 :: k :: p.toList ∧ decodeFrame b = .frameUnknown k p) := by
  match b with
  | [] => exact .inl ⟨by simp, rfl⟩
  | [_] => exact .inl ⟨by simp, rfl⟩
  | h :: k :: p =>
    by_cases hp : p.length = 14
    · by_cases hh : h = 0xAA#8
      · subst hh
        cases hg : groupOf k with
        | none => exact .inr (.inr (.inr ⟨k, payloadOfList p hp, hg, by simp, by simp [decodeFrame, hp, hg]⟩))
        | some G => exact .inr (.inr (.inl ⟨k, payloadOfList p hp, G, hg, by simp⟩))
      · refine .inr (.inl ⟨h, tailOfList (k :: p) (by simp [hp]), hh, by simp, ?_⟩)
        simp [decodeFrame, hp, hh]
    · exact .inl ⟨by simpa using hp, by simp [decodeFrame, hp]⟩

/-- R152: the DECF row of an input that no fold row matches, and of one that does. -/
theorem decfRow_other (b : List Byte) (h : knownFrame b = false) : decfRow b = .decf b := by
  unfold decfRow
  rcases decodeFrame_cases b with ⟨_, e⟩ | ⟨_, _, _, _, e⟩ | ⟨k, p, G, hg, hb⟩ | ⟨_, _, _, _, e⟩
  · rw [e]
  · rw [e]
  · subst hb
    simp [knownFrame, knownKind, hg] at h
  · rw [e]

theorem decfRow_known (k : Byte) (G : Group) (p : Payload) (hg : groupOf k = some G) :
    decfRow (0xAA#8 :: k :: p.toList) =
      match G with
      | .g0 => .decfK0 p
      | .g1 => .decfK1 p
      | .g4 => .decfK4 p
      | .g13 => .decfK13 p := by
  unfold decfRow
  rw [decodeFrame_known _ _ _ hg]
  cases G <;> rfl

/-- R83: the ENC row of a kind is well-formed and has the bytes of its command. -/
theorem encRow_spec (k : Byte) (v : ValueBlock) :
    (encRow k v).wf = true ∧ (encRow k v).format = .cmd ∧ encode (encRow k v) = 0x01#8 :: k :: v.toBytes := by
  unfold encRow
  cases hg : groupOf k with
  | none => simp [Instr.wf, Instr.format, encode, knownKind, hg]
  | some G =>
    rw [groupOf_eq_some] at hg
    subst hg
    cases G <;> simp [Instr.wf, Instr.format, encode, Group.kind]

/-- R84, R152: the DECF row of an input is well-formed and has the bytes of its command. -/
theorem decfRow_spec (b : List Byte) (h : b.length ≤ 255) :
    (decfRow b).wf = true ∧ (decfRow b).format = .cmd ∧ encode (decfRow b) = 0x03#8 :: inputBytes b := by
  cases hk : knownFrame b
  · rw [decfRow_other _ hk]
    simp [Instr.wf, Instr.format, encode, h, hk]
  · match b, hk with
    | h0 :: k :: p, hk =>
      simp only [knownFrame, Bool.and_eq_true, beq_iff_eq, knownKind, Option.isSome_iff_exists] at hk
      obtain ⟨⟨rfl, G, hg⟩, hp⟩ := hk
      have e := decfRow_known k G (payloadOfList p hp) hg
      have i := inputBytes_frame k (payloadOfList p hp)
      rw [payloadOfList_toList] at e i
      rw [e, i]
      rw [groupOf_eq_some] at hg
      subst hg
      cases G <;> simp [Instr.wf, Instr.format, encode, Group.kind]

/-- R82, R184: an illegal opcode is none of the seven. -/
theorem illegalOpcode_iff (op : Byte) :
    illegalOpcode op = true ↔
      op ≠ 0x01#8 ∧ op ≠ 0x02#8 ∧ op ≠ 0x03#8 ∧ op ≠ 0x04#8 ∧ op ≠ 0x05#8 ∧ op ≠ 0x06#8 ∧ op ≠ 0x07#8 := by
  have key : ∀ o : Byte, illegalOpcode o = true ↔
      (o ≠ 0x01#8 ∧ o ≠ 0x02#8 ∧ o ≠ 0x03#8 ∧ o ≠ 0x04#8 ∧ o ≠ 0x05#8 ∧ o ≠ 0x06#8 ∧ o ≠ 0x07#8) := by decide
  exact key op

/-- R184: an illegal opcode is a whole command. -/
theorem decodeCommand_illegal (op : Byte) (rest : List Byte) (h : illegalOpcode op = true) :
    decodeCommand (op :: rest) = .ok (.illegal op, rest) := by
  obtain ⟨h1, h2, h3, h4, h5, h6, h7⟩ := (illegalOpcode_iff op).mp h
  simp [decodeCommand, *]

namespace Machine

/-- R107: the frame of an unknown kind. -/
theorem encodeFrame_unknown (L : Layout) (k : Byte) (v : ValueBlock) (h : groupOf k = none) :
    (encodeFrame L k v).toList = 0xAA#8 :: k :: List.replicate 14 0x00#8 := by
  rw [encodeFrame, fieldsOf_unknown k h]
  rfl

/-- R77: the byte a one-byte field is read from. -/
theorem getElem?_of_memRead1 (L : Layout) (f : Frame) (F : Field) (h : F.bytes = 1) (v : Byte)
    (e : memRead1 f (L.off F) (off_lt L F h) = v) : f[L.off F]? = some v := by
  subst e
  simp [memRead1, off_lt L F h]

/-- R77: the bytes a two-byte field is read from, the high byte first. -/
theorem getElem?_of_memRead2 (L : Layout) (f : Frame) (F : Field) (h : F.bytes = 2) (hi lo : Byte)
    (e : memRead2 f (L.off F) (off_succ_lt L F h) = joinBytes hi lo) :
    f[L.off F]? = some hi ∧ f[L.off F + 1]? = some lo := by
  have h1 := congrArg hiByte e
  have h2 := congrArg loByte e
  have := off_succ_lt L F h
  simp only [memRead2_eq, hiByte_join, loByte_join] at h1 h2
  exact ⟨by rw [Vector.getElem?_eq_getElem (by omega), h1], by rw [Vector.getElem?_eq_getElem (by omega), h2]⟩

end Machine
end Sys2Proof
end

