-- ==== Sys2Proof/Laws/Exec.lean ====
section
/-! SUPPORT. Once, everything an instruction can do (exec_cases), and everything a step can do (step_cases). -/

namespace Sys2Proof.Machine

theorem knownGroup_payload (k : Byte) (p : Payload) : knownGroup (0xAA#8 :: k :: p.toList) = groupOf k := by
  simp [knownGroup]

/-- R121: Decode of bytes is Known_k exactly when the bytes are a frame of a known kind. -/
theorem isKnown_decodeInput (L : Layout) (b : List Byte) :
    isKnown (decodeInput L b) = (knownGroup b).isSome := by
  by_cases hl : b.length = 16
  · obtain ⟨h, k, p, rfl⟩ : ∃ h k p, b = h :: k :: p := by
      match b, hl with
      | h :: k :: p, _ => exact ⟨h, k, p, rfl⟩
    have hp : p.length = 14 := by simpa using hl
    by_cases hh : h = Config.header
    · subst hh
      have : decodeInput L (0xAA#8 :: k :: p) = extract L (frameOf Config.header k (payloadOfList p hp)) := by
        have := decodeInput_payload L k (payloadOfList p hp)
        rwa [payloadOfList_toList] at this
      rw [this]
      cases hg : groupOf k with
      | none => simp [extract, knownGroup, hp, hg, isKnown]
      | some G => cases G <;>
          simp [extract, knownGroup, hp, hg, isKnown, extract0, extract1, extract4, extract13]
    · rw [decodeInput_badHeader _ _ _ hl hh]
      simp [isKnown, knownGroup, show ¬(h = 0xAA#8) from hh]
  · rw [decodeInput_wrongLength _ _ hl]
    match b, hl with
    | [], _ => rfl
    | [_], _ => rfl
    | h :: k :: p, hl =>
      have : ¬(p.length = 14) := by simpa using hl
      simp [isKnown, knownGroup, this]

/-- R150: the end of a DECF, both ways. -/
theorem decodeAndFold_cases (s : State) (r : DecodeResult) :
    (s.ctrl.foldEn = true ∧ isKnown r = true ∧
      decodeAndFold s r = .next ((s.withTrb (foldResult s.trb r)).withResponse (responseOf r true))) ∨
    ((s.ctrl.foldEn = false ∨ isKnown r = false) ∧
      decodeAndFold s r = .next (s.withResponse (responseOf r false))) := by
  cases h : s.ctrl.foldEn
  · exact .inr ⟨.inl rfl, decodeAndFold_off s r h⟩
  · cases hk : isKnown r
    · exact .inr ⟨.inr rfl, decodeAndFold_unknown s r hk⟩
    · exact .inl ⟨rfl, rfl, decodeAndFold_on s r h hk⟩

/-- A DECF row decodes its input bytes and folds the result. -/
theorem exec_decf_rows (i : Instr) (s : State) (h : isDecf i = true) :
    ∃ b, decodeInputOf i = some b ∧ exec i s = decodeAndFold s (decodeInput s.config.layout b) := by
  cases i <;> simp [isDecf] at h
  case decf b => exact ⟨b, rfl, rfl⟩
  all_goals
    refine ⟨_, rfl, ?_⟩
    rw [decodeInput_payload]
    rfl

/-- What an instruction does: it answers and writes nothing else; or it is a DECF that folds; or CLR; or WRCTL. -/
theorem exec_cases (i : Instr) (s : State) :
    (∃ r, r.folded = false ∧ exec i s = .next (s.withResponse r)) ∨
    (∃ b, isDecf i = true ∧ decodeInputOf i = some b ∧ s.ctrl.foldEn = true ∧
      isKnown (decodeInput s.config.layout b) = true ∧
      exec i s = .next ((s.withTrb (foldResult s.trb (decodeInput s.config.layout b))).withResponse
        (responseOf (decodeInput s.config.layout b) true))) ∨
    (i = .clr ∧ exec i s = .next ((s.withTrb TRB.reset).withResponse (okResponse .empty))) ∨
    (∃ v, i = .wrctl v ∧ exec i s = .next ((s.withCtrl (Ctrl.ofByte v)).withResponse (okResponse .empty))) := by
  by_cases hd : isDecf i = true
  · obtain ⟨b, hb, he⟩ := exec_decf_rows i s hd
    rcases decodeAndFold_cases s (decodeInput s.config.layout b) with ⟨h1, h2, h3⟩ | ⟨-, h3⟩
    · exact .inr (.inl ⟨b, hd, hb, h1, h2, he.trans h3⟩)
    · exact .inl ⟨_, rfl, he.trans h3⟩
  · cases i <;> simp only [isDecf] at hd
    case clr => exact .inr (.inr (.inl ⟨rfl, rfl⟩))
    case wrctl v => exact .inr (.inr (.inr ⟨v, rfl, rfl⟩))
    all_goals first
      | exact .inl ⟨_, rfl, rfl⟩
      | exact absurd trivial hd

/-- Every instruction answers a next state (R187). -/
theorem exec_total (i : Instr) (s : State) : ∃ t, exec i s = .next t := by
  rcases exec_cases i s with ⟨_, _, h⟩ | ⟨_, _, _, _, _, h⟩ | ⟨_, h⟩ | ⟨_, _, h⟩ <;> exact ⟨_, h⟩

/-- No instruction takes a host event or touches the configuration (R20). -/
theorem exec_keeps_input_config (i : Instr) (s t : State) (h : exec i s = .next t) :
    t.input = s.input ∧ t.config = s.config := by
  rcases exec_cases i s with ⟨_, _, e⟩ | ⟨_, _, _, _, _, e⟩ | ⟨_, e⟩ | ⟨_, _, e⟩ <;> rw [e] at h <;> cases h <;> simp

/-- R120, R150, R181: a row that decodes an input answers that input's decode result. -/
theorem exec_decode_rows (i : Instr) (s : State) (b : List Byte) (hw : i.wf = true) (hb : decodeInputOf i = some b) :
    ∃ t folded, exec i s = .next t ∧
      t.responses = s.responses ++ [responseOf (decodeInput s.config.layout b) folded] := by
  by_cases hd : isDecf i = true
  · obtain ⟨b', hb', e⟩ := exec_decf_rows i s hd
    rw [hb] at hb'
    cases hb'
    rcases decodeAndFold_cases s (decodeInput s.config.layout b) with ⟨_, _, h⟩ | ⟨_, h⟩ <;>
      exact ⟨_, _, e.trans h, rfl⟩
  · cases i <;> simp [isDecf] at hd <;> simp only [decodeInputOf, Option.some.injEq, reduceCtorEq] at hb <;> subst hb
    case frameInvalidLength b =>
      rw [decodeInput_wrongLength _ _ (by simpa [Instr.wf] using hw)]
      exact ⟨_, false, rfl, rfl⟩
    case frameBadHeader h r =>
      rw [decodeInput_badHeader _ _ _ (by simp) (by simpa [Instr.wf] using hw)]
      exact ⟨_, false, rfl, rfl⟩
    case frameUnknown k p =>
      rw [decodeInput_payload, extract_unknown _ _ (by simpa [Instr.wf, knownKind] using hw), frameOf_one,
        payloadOf_frameOf]
      exact ⟨_, false, rfl, rfl⟩
    case frameK0 p => rw [decodeInput_payload, extract_g0 _ _ (by simp)]; exact ⟨_, false, rfl, rfl⟩
    case frameK1 p => rw [decodeInput_payload, extract_g1 _ _ (by simp)]; exact ⟨_, false, rfl, rfl⟩
    case frameK4 p => rw [decodeInput_payload, extract_g4 _ _ (by simp)]; exact ⟨_, false, rfl, rfl⟩
    case frameK13 p => rw [decodeInput_payload, extract_g13 _ _ (by simp)]; exact ⟨_, false, rfl, rfl⟩
    case dec b => exact ⟨_, false, rfl, rfl⟩

/-- R181: no decode result is an illegal command. -/
theorem statusOf_ne_illegal (r : DecodeResult) : statusOf r ≠ .errIllegalCmd := by cases r <;> simp [statusOf]

/-- R184: only ILLEGAL answers ERR_ILLEGAL_CMD. -/
theorem exec_legal_status (i : Instr) (s : State) (h : ∀ op, i ≠ .illegal op) :
    ∃ t r, exec i s = .next t ∧ t.responses = s.responses ++ [r] ∧ r.status ≠ .errIllegalCmd := by
  by_cases hd : isDecf i = true
  · obtain ⟨b, _, e⟩ := exec_decf_rows i s hd
    rcases decodeAndFold_cases s (decodeInput s.config.layout b) with ⟨_, _, h⟩ | ⟨_, h⟩ <;>
      exact ⟨_, _, e.trans h, rfl, statusOf_ne_illegal _⟩
  · cases i <;> simp only [isDecf] at hd
    case illegal op => exact absurd rfl (h op)
    all_goals first
      | exact ⟨_, _, rfl, rfl, statusOf_ne_illegal _⟩
      | exact ⟨_, _, rfl, rfl, fun e => nomatch e⟩
      | exact absurd trivial hd

/-- What a step does. -/
theorem step_cases (s : State) :
    (s.input = [] ∧ step s = .refused .noCommand) ∨
    (∃ es, s.input = .reset :: es ∧ step s = .next (hostReset (s.withInput es))) ∨
    (∃ bytes es e, s.input = .present bytes :: es ∧ decodeCommand bytes = .error e ∧
      step s = .refused .incompleteCommand) ∨
    (∃ bytes es i c rest, s.input = .present bytes :: es ∧ decodeCommand bytes = .ok (i, c :: rest) ∧
      step s = .refused .commandOverlap) ∨
    (∃ bytes es i, s.input = .present bytes :: es ∧ decodeCommand bytes = .ok (i, []) ∧
      step s = exec i (s.withInput es)) := by
  rcases h : s.input with _ | ⟨_ | _, es⟩
  · exact .inl ⟨rfl, by simp [step, fetch, h]⟩
  · rename_i bytes
    rcases hd : decodeCommand bytes with e | ⟨i, _ | ⟨c, rest⟩⟩
    · exact .inr (.inr (.inl ⟨bytes, es, e, rfl, hd, by simp [step, fetch, h, hd]⟩))
    · exact .inr (.inr (.inr (.inr ⟨bytes, es, i, rfl, hd, by simp [step, fetch, h, hd]⟩)))
    · exact .inr (.inr (.inr (.inl ⟨bytes, es, i, c, rest, rfl, hd, by simp [step, fetch, h, hd]⟩)))
  · exact .inr (.inl ⟨es, rfl, by simp [step, fetch, h]⟩)

/-- R34, R36: a step on exactly one whole command runs it. -/
theorem step_command (s : State) (bytes : List Byte) (es : List HostEvent) (i : Instr)
    (h : s.input = .present bytes :: es) (hd : decodeCommand bytes = .ok (i, [])) :
    step s = exec i (s.withInput es) := by simp [step, fetch, h, hd]

/-- R36, R205: what a host's move can do. -/
theorem present_cases (s : State) (e : HostEvent) :
    (e.isCommand = true ∧ s.input.any HostEvent.isCommand = true ∧ s.present e = .refused .commandOverlap) ∨
    ((e.isCommand = false ∨ s.input.any HostEvent.isCommand = false) ∧
      s.present e = .next (s.withInput (s.input ++ [e]))) := by
  unfold State.present
  cases e.isCommand <;> cases s.input.any HostEvent.isCommand <;> simp

end Sys2Proof.Machine
end

