-- ==== Sys2Proof/Laws/PerInstr.lean ====
section
/-! SUPPORT. The per-instruction family TableRow: the bytes of a well-formed instruction begin with the fixed bytes of its
row of spec/opcode_table.json, and are as many as the row's length_bytes says. -/

namespace Sys2Proof.Laws

/-- The bytes a row's match and mask fix, first byte first (30_encoding R78, R82, R83). -/
def tableHead : Instr → List Byte
  | .frameInvalidLength _ => []
  | .frameBadHeader _ _ => []
  | .frameK0 _ => [0xAA#8, 0x00#8]
  | .frameK1 _ => [0xAA#8, 0x01#8]
  | .frameK4 _ => [0xAA#8, 0x04#8]
  | .frameK13 _ => [0xAA#8, 0x0D#8]
  | .frameUnknown _ _ => [0xAA#8]
  | .encK0 _ => [0x01#8, 0x00#8]
  | .encK1 _ => [0x01#8, 0x01#8]
  | .encK4 _ => [0x01#8, 0x04#8]
  | .encK13 _ => [0x01#8, 0x0D#8]
  | .encUnknown _ _ => [0x01#8]
  | .dec _ => [0x02#8]
  | .decf _ => [0x03#8]
  | .decfK0 _ => [0x03#8, 0x10#8, 0xAA#8, 0x00#8]
  | .decfK1 _ => [0x03#8, 0x10#8, 0xAA#8, 0x01#8]
  | .decfK4 _ => [0x03#8, 0x10#8, 0xAA#8, 0x04#8]
  | .decfK13 _ => [0x03#8, 0x10#8, 0xAA#8, 0x0D#8]
  | .rdt => [0x04#8]
  | .clr => [0x05#8]
  | .wrctl _ => [0x06#8]
  | .rdctl => [0x07#8]
  | .illegal _ => []

/-- The row's length_bytes. -/
def lengthFits : Instr → Nat → Prop
  | .frameInvalidLength _, n => n ≠ 16
  | .frameBadHeader _ _, n => n = 16
  | .frameK0 _, n => n = 16
  | .frameK1 _, n => n = 16
  | .frameK4 _, n => n = 16
  | .frameK13 _, n => n = 16
  | .frameUnknown _ _, n => n = 16
  | .encK0 _, n => n = 15
  | .encK1 _, n => n = 15
  | .encK4 _, n => n = 15
  | .encK13 _, n => n = 15
  | .encUnknown _ _, n => n = 15
  | .dec b, n => n = b.length + 2
  | .decf b, n => n = b.length + 2
  | .decfK0 _, n => n = 18
  | .decfK1 _, n => n = 18
  | .decfK4 _, n => n = 18
  | .decfK13 _, n => n = 18
  | .rdt, n => n = 1
  | .clr, n => n = 1
  | .wrctl _, n => n = 2
  | .rdctl, n => n = 1
  | .illegal _, n => n = 1

def TableRow.Statement (i : Instr) : Prop :=
  i.wf = true → tableHead i <+: encode i ∧ lengthFits i (encode i).length

theorem TableRow.frameInvalidLength (b : List Byte) : TableRow.Statement (.frameInvalidLength b) :=
  fun h => ⟨List.nil_prefix, by simpa [Instr.wf, lengthFits, encode] using h⟩

theorem TableRow.frameBadHeader (h : Byte) (r : Vector Byte 15) : TableRow.Statement (.frameBadHeader h r) :=
  fun _ => ⟨List.nil_prefix, by simp [lengthFits, encode]⟩

theorem TableRow.frameK0 (p : Payload) : TableRow.Statement (.frameK0 p) :=
  fun _ => ⟨⟨p.toList, rfl⟩, by simp [lengthFits, encode]⟩

theorem TableRow.frameK1 (p : Payload) : TableRow.Statement (.frameK1 p) :=
  fun _ => ⟨⟨p.toList, rfl⟩, by simp [lengthFits, encode]⟩

theorem TableRow.frameK4 (p : Payload) : TableRow.Statement (.frameK4 p) :=
  fun _ => ⟨⟨p.toList, rfl⟩, by simp [lengthFits, encode]⟩

theorem TableRow.frameK13 (p : Payload) : TableRow.Statement (.frameK13 p) :=
  fun _ => ⟨⟨p.toList, rfl⟩, by simp [lengthFits, encode]⟩

theorem TableRow.frameUnknown (k : Byte) (p : Payload) : TableRow.Statement (.frameUnknown k p) :=
  fun _ => ⟨⟨k :: p.toList, rfl⟩, by simp [lengthFits, encode]⟩

theorem TableRow.encK0 (v : ValueBlock) : TableRow.Statement (.encK0 v) := fun _ => ⟨⟨v.toBytes, rfl⟩, rfl⟩

theorem TableRow.encK1 (v : ValueBlock) : TableRow.Statement (.encK1 v) := fun _ => ⟨⟨v.toBytes, rfl⟩, rfl⟩

theorem TableRow.encK4 (v : ValueBlock) : TableRow.Statement (.encK4 v) := fun _ => ⟨⟨v.toBytes, rfl⟩, rfl⟩

theorem TableRow.encK13 (v : ValueBlock) : TableRow.Statement (.encK13 v) := fun _ => ⟨⟨v.toBytes, rfl⟩, rfl⟩

theorem TableRow.encUnknown (k : Byte) (v : ValueBlock) : TableRow.Statement (.encUnknown k v) :=
  fun _ => ⟨⟨k :: v.toBytes, rfl⟩, rfl⟩

theorem TableRow.dec (b : List Byte) : TableRow.Statement (.dec b) := fun _ => ⟨⟨inputBytes b, rfl⟩, rfl⟩

theorem TableRow.decf (b : List Byte) : TableRow.Statement (.decf b) := fun _ => ⟨⟨inputBytes b, rfl⟩, rfl⟩

theorem TableRow.decfK0 (p : Payload) : TableRow.Statement (.decfK0 p) :=
  fun _ => ⟨⟨p.toList, rfl⟩, by simp [lengthFits, encode]⟩

theorem TableRow.decfK1 (p : Payload) : TableRow.Statement (.decfK1 p) :=
  fun _ => ⟨⟨p.toList, rfl⟩, by simp [lengthFits, encode]⟩

theorem TableRow.decfK4 (p : Payload) : TableRow.Statement (.decfK4 p) :=
  fun _ => ⟨⟨p.toList, rfl⟩, by simp [lengthFits, encode]⟩

theorem TableRow.decfK13 (p : Payload) : TableRow.Statement (.decfK13 p) :=
  fun _ => ⟨⟨p.toList, rfl⟩, by simp [lengthFits, encode]⟩

theorem TableRow.rdt : TableRow.Statement .rdt := fun _ => ⟨⟨[], rfl⟩, rfl⟩

theorem TableRow.clr : TableRow.Statement .clr := fun _ => ⟨⟨[], rfl⟩, rfl⟩

theorem TableRow.wrctl (v : Byte) : TableRow.Statement (.wrctl v) := fun _ => ⟨⟨[v], rfl⟩, rfl⟩

theorem TableRow.rdctl : TableRow.Statement .rdctl := fun _ => ⟨⟨[], rfl⟩, rfl⟩

theorem TableRow.illegal (op : Byte) : TableRow.Statement (.illegal op) := fun _ => ⟨List.nil_prefix, rfl⟩

end Sys2Proof.Laws
end

