-- ==== Sys2Proof/Tests/Slice0.lean ====
section
/-! SUPPORT. Tests whose expected values come from the spec (bytes written out from 30_encoding R78 to R88, vectors of
95_test_vectors), the refused ill-formed terms, and a witness for the hypotheses of every obligation that has some. -/

namespace Sys2Proof.Tests

open Sys2Proof Sys2Proof.Machine

/-! ### Helpers -/

/-- The machine after reset with these bytes presented. -/
def given (bytes : List Byte) : State := State.reset.withInput [.present bytes]

/-- The machine after reset with FOLD_EN = 1 and these bytes presented. -/
def givenFolding (bytes : List Byte) : State := (given bytes).withCtrl ⟨true⟩

/-- The state a result goes on with. -/
def nextOf : Result → Option State
  | .next t => some t
  | _ => none

/-- The bytes of the last response of the state a result goes on with. -/
def answerOf (r : Result) : Option (List (Option Byte)) :=
  (nextOf r).bind (fun t => t.responses.getLast?.map Response.bytes)

/-- Does the result go on? -/
def goesOn (r : Result) : Bool := (nextOf r).isSome

/-- Bytes that all have a value. -/
def valued (bs : List Byte) : Option (List (Option Byte)) := some (bs.map some)

/-- A value block of E1. -/
def blockE1 : ValueBlock :=
  { gear := 3, rpm := 1200, iq := 0xFB2E, id := 500, voltage := 0, ctrlTemp := 0, motorTemp := 0, throttle := 0 }

def zeros (n : Nat) : List Byte := List.replicate n 0x00#8

def zeroPayload : Payload := Vector.replicate 14 0x00#8

/-- The frame of D3 and D5's header, `AA 01 03 84`, with the padding given. -/
def frameD3 (padding : List Byte) : List Byte := [0xAA#8, 0x01#8, 0x03#8, 0x84#8] ++ padding

/-- The frame of E1 and D1. -/
def frameE1 : List Byte :=
  [0xAA#8, 0x00#8, 0x03#8, 0x04#8, 0xB0#8, 0xFB#8, 0x2E#8, 0x01#8, 0xF4#8] ++ zeros 7

/-- The bank after F1: group G1 valid with voltage 0x0384. -/
def bankF1 : TRB := { TRB.reset with valid1 := true, voltage := some 0x0384#16 }

/-- The bank with G13 valid. -/
def bank13 : TRB := { TRB.reset with valid13 := true, motorTemp := some 0x2D#8, throttle := some 0x0FFF#16 }

/-- A state with FOLD_EN = 1, G13 valid and nothing presented. -/
def folding13 : State := (State.reset.withTrb bank13).withCtrl ⟨true⟩

/-- A well-formed LAYOUT that is not LAYOUT_DEFAULT: every field at the end of the payload. -/
def layoutHigh : Layout :=
  { table := { gear := 15, rpm := 13, iq := 11, id := 9, voltage := 14, ctrlTemp := 15, motorTemp := 2, throttle := 14 }
    wf := by decide }

/-! ### Ill-formed terms, one for each check -/

theorem test_wf_refuses_length_16 : (Instr.frameInvalidLength (zeros 16)).wf = false := by decide
theorem test_wf_refuses_good_header : (Instr.frameBadHeader 0xAA#8 (Vector.replicate 15 0x00#8)).wf = false := by decide
theorem test_wf_refuses_known_kind_frame : (Instr.frameUnknown 0x0D#8 zeroPayload).wf = false := by decide
theorem test_wf_refuses_known_kind_enc : (Instr.encUnknown 0x04#8 blockE1).wf = false := by decide
theorem test_wf_refuses_dec_of_256 : (Instr.dec (zeros 256)).wf = false := by decide +kernel
theorem test_wf_refuses_decf_of_256 : (Instr.decf (zeros 256)).wf = false := by decide +kernel
theorem test_wf_refuses_decf_of_known_frame : (Instr.decf frameE1).wf = false := by decide
theorem test_wf_refuses_legal_opcode : (Instr.illegal 0x04#8).wf = false := by decide
theorem test_layout_refuses_byte_16 : { layoutDefaultTable with throttle := 15 }.wf = false := by decide
theorem test_layout_refuses_byte_1 : { layoutDefaultTable with ctrlTemp := 1 }.wf = false := by decide
theorem test_layout_refuses_overlap : { layoutDefaultTable with iq := 4 }.wf = false := by decide

/-! ### Decoding: every row's bytes, written from R78 (FRAME) and R82, R83 (CMD) -/

theorem test_decode_frame_invalid_length :
    decodeFrame [0xAA#8, 0x00#8] = .frameInvalidLength [0xAA#8, 0x00#8] := by decide
theorem test_decode_frame_bad_header :
    decodeFrame ([0x55#8, 0x04#8, 0x10#8] ++ zeros 13) =
      .frameBadHeader 0x55#8 #v[0x04#8, 0x10#8, 0, 0, 0, 0, 0, 0, 0, 0, 0, 0, 0, 0, 0] := by decide
theorem test_decode_frame_k0 : decodeFrame ([0xAA#8, 0x00#8] ++ zeros 14) = .frameK0 zeroPayload := by decide
theorem test_decode_frame_k1 : decodeFrame ([0xAA#8, 0x01#8] ++ zeros 14) = .frameK1 zeroPayload := by decide
theorem test_decode_frame_k4 : decodeFrame ([0xAA#8, 0x04#8] ++ zeros 14) = .frameK4 zeroPayload := by decide
theorem test_decode_frame_k13 : decodeFrame ([0xAA#8, 0x0D#8] ++ zeros 14) = .frameK13 zeroPayload := by decide
theorem test_decode_frame_unknown :
    decodeFrame ([0xAA#8, 0x13#8] ++ zeros 14) = .frameUnknown 0x13#8 zeroPayload := by decide
theorem test_decode_enc_k0 :
    decodeCommand ([0x01#8, 0x00#8, 0x03#8, 0x04#8, 0xB0#8, 0xFB#8, 0x2E#8, 0x01#8, 0xF4#8] ++ zeros 6) =
      .ok (.encK0 blockE1, []) := by decide
theorem test_decode_enc_k1 :
    decodeCommand [0x01#8, 0x01#8, 0, 0, 0, 0, 0, 0, 0, 0x01#8, 0xE0#8, 0, 0, 0, 0] =
      .ok (.encK1 { zeroBlock with voltage := 480 }, []) := by decide
theorem test_decode_enc_k4 :
    decodeCommand [0x01#8, 0x04#8, 0, 0, 0, 0, 0, 0, 0, 0, 0, 0x1E#8, 0, 0, 0] =
      .ok (.encK4 { zeroBlock with ctrlTemp := 30 }, []) := by decide
theorem test_decode_enc_k13 :
    decodeCommand [0x01#8, 0x0D#8, 0, 0, 0, 0, 0, 0, 0, 0, 0, 0, 0x28#8, 0x02#8, 0x00#8] =
      .ok (.encK13 { zeroBlock with motorTemp := 40, throttle := 512 }, []) := by decide
theorem test_decode_enc_unknown :
    decodeCommand ([0x01#8, 0xAA#8] ++ zeros 13) = .ok (.encUnknown 0xAA#8 zeroBlock, []) := by decide
theorem test_decode_dec :
    decodeCommand [0x02#8, 0x02#8, 0xAA#8, 0x01#8, 0x04#8] = .ok (.dec [0xAA#8, 0x01#8], [0x04#8]) := by decide
theorem test_decode_decf :
    decodeCommand ([0x03#8, 0x10#8, 0xAA#8, 0x02#8] ++ zeros 14) =
      .ok (.decf ([0xAA#8, 0x02#8] ++ zeros 14), []) := by decide
theorem test_decode_decf_k0 :
    decodeCommand ([0x03#8, 0x10#8, 0xAA#8, 0x00#8] ++ zeros 14) = .ok (.decfK0 zeroPayload, []) := by decide
theorem test_decode_decf_k1 :
    decodeCommand ([0x03#8, 0x10#8, 0xAA#8, 0x01#8] ++ zeros 14) = .ok (.decfK1 zeroPayload, []) := by decide
theorem test_decode_decf_k4 :
    decodeCommand ([0x03#8, 0x10#8, 0xAA#8, 0x04#8] ++ zeros 14) = .ok (.decfK4 zeroPayload, []) := by decide
theorem test_decode_decf_k13 :
    decodeCommand ([0x03#8, 0x10#8, 0xAA#8, 0x0D#8] ++ zeros 14) = .ok (.decfK13 zeroPayload, []) := by decide
theorem test_decode_rdt : decodeCommand [0x04#8] = .ok (.rdt, []) := by decide
theorem test_decode_clr : decodeCommand [0x05#8] = .ok (.clr, []) := by decide
theorem test_decode_wrctl : decodeCommand [0x06#8, 0xFE#8] = .ok (.wrctl 0xFE#8, []) := by decide
theorem test_decode_rdctl : decodeCommand [0x07#8] = .ok (.rdctl, []) := by decide
theorem test_decode_illegal : decodeCommand [0xFF#8] = .ok (.illegal 0xFF#8, []) := by decide

/-- T11 and T12: not commands (R89). -/
theorem test_decode_refuses_incomplete :
    decodeCommand [0x01#8, 0x00#8, 0x03#8] = .error (.operandsMissing 0x01#8) ∧
    decodeCommand [0x02#8, 0x10#8, 0xAA#8, 0x01#8] = .error (.operandsMissing 0x02#8) := by decide

/-! ### The words of the opcode table -/

theorem test_table_frame_words :
    decodeTableWord 16 0xAA00 = some (.frameK0 zeroPayload) ∧
    decodeTableWord 16 0xAA01 = some (.frameK1 zeroPayload) ∧
    decodeTableWord 16 0xAA04 = some (.frameK4 zeroPayload) ∧
    decodeTableWord 16 0xAA0D = some (.frameK13 zeroPayload) ∧
    decodeTableWord 16 0xAA02 = some (.frameUnknown 0x02#8 zeroPayload) := by decide +kernel

theorem test_table_command_words :
    decodeTableWord 16 0x010D = some (.encK13 zeroBlock) ∧
    decodeTableWord 8 0x02 = some (.dec []) ∧
    decodeTableWord 8 0x03 = some (.decf []) ∧
    decodeTableWord 32 0x0310AA04 = some (.decfK4 zeroPayload) ∧
    decodeTableWord 8 0x04 = some .rdt ∧
    decodeTableWord 8 0x06 = some (.wrctl 0x00#8) ∧
    decodeTableWord 8 0x08 = some (.illegal 0x08#8) := by decide +kernel

/-- A table word is run by the very next step, as a command that leaves nothing behind. -/
theorem test_fetch_word_frame :
    answerOf (step (State.reset.withFetchWord 16 0xAA04)) = valued [0x00#8, 0x00#8, 0x04#8, 0x00#8] := by decide +kernel
theorem test_fetch_word_command :
    nextOf (step (State.reset.withFetchWord 16 0x0104)) =
      some (State.reset.withResponse (okResponse (.frame (encodeFrame layoutDefault 0x04#8 zeroBlock)))) := by decide +kernel

/-! ### One step, against the vectors of 95_test_vectors -/

/-- E1. -/
theorem test_enc_k0 :
    answerOf (step (given ([0x01#8, 0x00#8, 0x03#8, 0x04#8, 0xB0#8, 0xFB#8, 0x2E#8, 0x01#8, 0xF4#8] ++ zeros 6))) =
      valued ([0x00#8, 0x00#8] ++ frameE1) := by decide
/-- E7: foreign fields have no effect. -/
theorem test_enc_k1_foreign_fields :
    answerOf (step (given [0x01#8, 0x01#8, 0x00#8, 0x04#8, 0xB0#8, 0, 0, 0, 0, 0x03#8, 0x84#8, 0x00#8, 0x2D#8, 0, 0])) =
      valued ([0x00#8, 0x00#8] ++ frameD3 (zeros 12)) := by decide
/-- E8. -/
theorem test_enc_k4 :
    answerOf (exec (.encK4 { zeroBlock with ctrlTemp := 0xFB#8 }) State.reset) =
      valued ([0x00#8, 0x00#8, 0xAA#8, 0x04#8, 0xFB#8] ++ zeros 13) := by decide
/-- E11. -/
theorem test_enc_k13 :
    answerOf (exec (.encK13 { zeroBlock with motorTemp := 45, throttle := 4095 }) State.reset) =
      valued ([0x00#8, 0x00#8, 0xAA#8, 0x0D#8, 0x2D#8, 0x0F#8, 0xFF#8] ++ zeros 11) := by decide
/-- E13. -/
theorem test_enc_unknown :
    answerOf (exec (.encUnknown 0x07#8 { zeroBlock with voltage := 900 }) State.reset) =
      valued ([0x00#8, 0x00#8, 0xAA#8, 0x07#8] ++ zeros 14) := by decide
/-- D1. -/
theorem test_dec_k0 :
    answerOf (step (given ([0x02#8, 0x10#8] ++ frameE1))) =
      valued [0x00#8, 0x00#8, 0x00#8, 0x03#8, 0x04#8, 0xB0#8, 0xFB#8, 0x2E#8, 0x01#8, 0xF4#8] := by decide
theorem test_frame_k0 :
    answerOf (exec (decodeFrame frameE1) State.reset) =
      valued [0x00#8, 0x00#8, 0x00#8, 0x03#8, 0x04#8, 0xB0#8, 0xFB#8, 0x2E#8, 0x01#8, 0xF4#8] := by decide
/-- D5: the padding is ignored. -/
theorem test_frame_k1 :
    answerOf (exec (decodeFrame (frameD3 [0x12#8, 0x34#8, 0x56#8, 0x78#8, 0x9A#8, 0xBC#8, 0xDE#8, 0xF0#8, 0x11#8, 0x22#8,
      0x33#8, 0x44#8])) State.reset) = valued [0x00#8, 0x00#8, 0x01#8, 0x03#8, 0x84#8] := by decide
/-- D6. -/
theorem test_frame_k4 :
    answerOf (exec (decodeFrame ([0xAA#8, 0x04#8, 0xFB#8] ++ zeros 13)) State.reset) =
      valued [0x00#8, 0x00#8, 0x04#8, 0xFB#8] := by decide
/-- D8. -/
theorem test_frame_k13 :
    answerOf (exec (decodeFrame ([0xAA#8, 0x0D#8, 0x2D#8, 0x0F#8, 0xFF#8] ++ zeros 11)) State.reset) =
      valued [0x00#8, 0x00#8, 0x0D#8, 0x2D#8, 0x0F#8, 0xFF#8] := by decide
/-- D9: 0x13 is not kind 13. -/
theorem test_frame_unknown :
    answerOf (exec (decodeFrame ([0xAA#8, 0x13#8, 0x2D#8, 0x0F#8, 0xFF#8] ++ zeros 11)) State.reset) =
      valued ([0x01#8, 0x00#8, 0x13#8, 0x2D#8, 0x0F#8, 0xFF#8] ++ zeros 11) := by decide
/-- D14: the length is checked before the header. -/
theorem test_frame_invalid_length :
    answerOf (exec (decodeFrame ([0x55#8, 0x01#8, 0x03#8, 0x84#8] ++ zeros 11)) State.reset) =
      valued [0x02#8, 0x00#8] := by decide
/-- D17: only byte 0 is the header. -/
theorem test_frame_bad_header :
    answerOf (exec (decodeFrame ([0x00#8, 0xAA#8, 0x03#8, 0x84#8] ++ zeros 12)) State.reset) =
      valued [0x03#8, 0x00#8] := by decide
/-- D12: the empty input. -/
theorem test_dec_empty : answerOf (step (given [0x02#8, 0x00#8])) = valued [0x02#8, 0x00#8] := by decide
/-- F1. -/
theorem test_decf_k1_folds :
    answerOf (step (givenFolding ([0x03#8, 0x10#8] ++ frameD3 (zeros 12)))) =
      valued [0x00#8, 0x01#8, 0x01#8, 0x03#8, 0x84#8] ∧
    (nextOf (step (givenFolding ([0x03#8, 0x10#8] ++ frameD3 (zeros 12))))).map State.trb = some bankF1 := by decide
/-- F2. -/
theorem test_decf_k1_without_fold_en :
    answerOf (step (given ([0x03#8, 0x10#8] ++ frameD3 (zeros 12)))) =
      valued [0x00#8, 0x00#8, 0x01#8, 0x03#8, 0x84#8] ∧
    (nextOf (step (given ([0x03#8, 0x10#8] ++ frameD3 (zeros 12))))).map State.trb = some TRB.reset := by decide
/-- F3. -/
theorem test_decf_unknown_kind :
    answerOf (step (givenFolding ([0x03#8, 0x10#8, 0xAA#8, 0xAA#8] ++ zeros 14))) =
      valued ([0x01#8, 0x00#8, 0xAA#8] ++ zeros 14) ∧
    (nextOf (step (givenFolding ([0x03#8, 0x10#8, 0xAA#8, 0xAA#8] ++ zeros 14)))).map State.trb =
      some TRB.reset := by decide
/-- F5. -/
theorem test_decf_bad_header :
    answerOf (step (givenFolding ([0x03#8, 0x10#8, 0xAB#8, 0x01#8, 0x03#8, 0x84#8] ++ zeros 12))) =
      valued [0x03#8, 0x00#8] := by decide
/-- F7: a kind-0 frame of zeros rewrites all four fields. -/
theorem test_decf_k0_rewrites_its_group :
    (nextOf (exec (.decfK0 zeroPayload) ((State.reset.withCtrl ⟨true⟩).withTrb { TRB.reset with
      valid0 := true, gear := some 3, rpm := some 0x04B0#16, iq := some 0xFB2E#16, id := some 0x01F4#16 }))).map
      State.trb = some { TRB.reset with valid0 := true, gear := some 0, rpm := some 0, iq := some 0, id := some 0 } := by
  decide
/-- P3, its second line. -/
theorem test_decf_k4 :
    (nextOf (step (givenFolding ([0x03#8, 0x10#8, 0xAA#8, 0x04#8, 0xFB#8] ++ zeros 13)))).map State.trb =
      some { TRB.reset with valid4 := true, ctrlTemp := some 0xFB#8 } := by decide
/-- P1, its second line. -/
theorem test_decf_k13 :
    (nextOf (step (givenFolding ([0x03#8, 0x10#8, 0xAA#8, 0x0D#8, 0x2D#8, 0x0F#8, 0xFF#8] ++ zeros 11)))).map
      State.trb = some bank13 := by decide
/-- T1. -/
theorem test_rdt_after_reset :
    answerOf (step (given [0x04#8])) =
      some ([some 0x00#8, some 0x00#8, some 0x00#8] ++ List.replicate 13 none) := by decide
/-- T2. -/
theorem test_rdt_after_f1 :
    answerOf (exec .rdt (State.reset.withTrb bankF1)) =
      some ([some 0x00#8, some 0x00#8, some 0x02#8] ++ List.replicate 7 none ++ [some 0x03#8, some 0x84#8] ++
        List.replicate 4 none) := by decide
/-- T3. -/
theorem test_clr :
    nextOf (exec .clr ((State.reset.withTrb bankF1).withCtrl ⟨true⟩)) =
      some ((State.reset.withCtrl ⟨true⟩).withResponse ⟨.ok, false, .empty⟩) := by decide
/-- T4, T5. -/
theorem test_wrctl :
    (nextOf (step (given [0x06#8, 0xFF#8]))).map State.ctrl = some ⟨true⟩ ∧
    (nextOf (step (givenFolding [0x06#8, 0xFE#8]))).map State.ctrl = some ⟨false⟩ := by decide
/-- T6, T7. -/
theorem test_rdctl :
    answerOf (step (given [0x07#8])) = valued [0x00#8, 0x00#8, 0x00#8] ∧
    answerOf (step (givenFolding [0x07#8])) = valued [0x00#8, 0x00#8, 0x01#8] := by decide
/-- T9. -/
theorem test_illegal :
    nextOf (step (given [0x08#8])) = some (State.reset.withResponse ⟨.errIllegalCmd, false, .empty⟩) ∧
    answerOf (step (given [0x08#8])) = valued [0x04#8, 0x00#8] := by decide
/-- R36, D25: a second command before the response, in one sequence, also after an illegal opcode; no move. -/
theorem test_step_refuses_second_command :
    step (given [0x05#8, 0x04#8]) = .refused .commandOverlap ∧
    step (given [0x08#8, 0x04#8]) = .refused .commandOverlap := ⟨rfl, rfl⟩
/-- R36, D25: a second command while one is unanswered; no move. After the response, and a reset at any time: a move. -/
theorem test_present_refuses_second_command :
    (given [0x05#8]).present (.present [0x04#8]) = .refused .commandOverlap ∧
    (given [0x05#8]).present .reset = .next (State.reset.withInput [.present [0x05#8], .reset]) ∧
    (((nextOf (step (given [0x05#8]))).bind (fun t => nextOf (t.present (.present [0x04#8])))).map State.input) =
      some [.present [0x04#8]] := ⟨rfl, rfl, rfl⟩
/-- R200: the reset input. -/
theorem test_reset_event :
    nextOf (step (folding13.withInput [.reset, .present [0x04#8]])) = some (given [0x04#8]) := by decide
/-- T12. -/
theorem test_step_refuses_incomplete :
    step (given [0x02#8, 0x10#8, 0xAA#8, 0x01#8]) = .refused .incompleteCommand := rfl

/-- D2: rpm is 65535 or -1 by RPM_SIGNED, iq is -327.68 A and id 327.67 A. -/
theorem test_meanings_of_d2 :
    fieldInt false .rpm 0xFFFF#16 = 65535 ∧ fieldInt true .rpm 0xFFFF#16 = -1 ∧
    fieldInt true .iq 0x8000#16 = -32768 ∧ fieldInt true .id 0x7FFF#16 = 32767 ∧
    fieldInt true .ctrlTemp 0xFB#8 = -5 := by decide

/-! ### The assembler -/

theorem test_asm_e1 :
    assembleLine layoutDefault "ENC 0, gear=3, rpm=1200, iq=-1234, id=500".toList = .ok (some (.encK0 blockE1)) := by
  decide
/-- E3, E4: both spellings of rpm's 0xFFFF. -/
theorem test_asm_e3_e4 :
    assembleLine layoutDefault "ENC 0, rpm=65535".toList = assembleLine layoutDefault "ENC 0, rpm=-1".toList ∧
    assembleLine layoutDefault "ENC 0, rpm=-1".toList = .ok (some (.encK0 { zeroBlock with rpm := 0xFFFF })) := by decide
theorem test_asm_e17_out_of_range :
    assembleLine layoutDefault "ENC 1, voltage=65536".toList = .error (.valueOutOfRange .voltage) := by decide
theorem test_asm_decf_frame :
    assembleLine layoutDefault "DECF FRAME 1, voltage=900 ; W4".toList =
      .ok (some (.decfK1 #v[0x03#8, 0x84#8, 0, 0, 0, 0, 0, 0, 0, 0, 0, 0, 0, 0])) := by decide
theorem test_asm_dec_list :
    assembleLine layoutDefault "DEC [AA 01 03]".toList = .ok (some (.dec [0xAA#8, 0x01#8, 0x03#8])) := by decide
theorem test_asm_pseudo :
    assembleLine layoutDefault "FOLDON".toList = .ok (some (.wrctl 0x01#8)) ∧
    assembleLine layoutDefault "FOLDOFF".toList = .ok (some (.wrctl 0x00#8)) := by decide

/-! ### Witnesses: a state and operands that meet the hypotheses of each obligation, and of each of its clauses -/

theorem witness_CommandDecodesFromItsBytes :
    (Instr.decf (zeros 255)).wf = true ∧ (Instr.decf (zeros 255)).format = .cmd ∧
    (Instr.illegal 0x08#8).wf = true ∧ (Instr.illegal 0x00#8).wf = true ∧ (Instr.illegal 0x00#8).format = .cmd := by
  decide +kernel

theorem witness_FrameRowDecodesFromItsBytes :
    (Instr.frameUnknown 0x02#8 zeroPayload).wf = true ∧ (Instr.frameUnknown 0x02#8 zeroPayload).format = .frame ∧
    (Instr.frameInvalidLength (zeros 15)).wf = true ∧ (Instr.frameInvalidLength (zeros 17)).wf = true := by decide

theorem witness_CommandBytesAreThoseOfItsInstruction :
    decodeCommand [0x06#8, 0x01#8, 0x04#8] = .ok (.wrctl 0x01#8, [0x04#8]) := by decide

theorem witness_EveryInputSelectsOneFrameRow :
    (Instr.frameK4 zeroPayload).wf = true ∧ (Instr.frameK4 zeroPayload).format = .frame ∧
    encode (.frameK4 zeroPayload) = [0xAA#8, 0x04#8] ++ zeros 14 := by decide

/-- One sequence for each way to be incomplete, and the shortest complete one beside it. -/
theorem witness_OnlyIncompleteCommandsAreRefused :
    decodeCommand [] = .error .noOpcode ∧
    decodeCommand (0x01#8 :: zeros 13) = .error (.operandsMissing 0x01#8) ∧
    decodeCommand (0x01#8 :: zeros 14) = .ok (.encK0 zeroBlock, []) ∧
    decodeCommand [0x02#8] = .error (.operandsMissing 0x02#8) ∧
    decodeCommand [0x03#8, 0x01#8] = .error (.operandsMissing 0x03#8) ∧
    decodeCommand [0x03#8, 0x01#8, 0xAA#8] = .ok (.decf [0xAA#8], []) ∧
    decodeCommand [0x06#8] = .error (.operandsMissing 0x06#8) := by decide

theorem witness_StepRunsTheDecodedCommand :
    (given [0x05#8]).input = [.present [0x05#8]] ∧ decodeCommand [0x05#8] = .ok (.clr, []) := by decide

theorem witness_StepStopsOnlyWithoutAWholeCommand :
    step State.reset = .refused .noCommand ∧ step (given []) = .refused .incompleteCommand ∧
    step (given [0x05#8, 0x04#8]) = .refused .commandOverlap ∧
    goesOn (step (given [0x04#8])) = true := ⟨rfl, rfl, rfl, by decide⟩

/-- A host that keeps to legal opcodes, and one that presents whole commands but an illegal opcode. -/
theorem witness_WholeCommandsAreNeverStuck :
    OneCommandEach [.present [0x05#8], .reset, .present [0x04#8]] ∧
    HostKeepsDuty [.present [0x05#8], .reset, .present [0x04#8]] ∧
    OneCommandEach [.present [0x08#8]] ∧ ¬HostKeepsDuty [.present [0x08#8]] := by
  refine ⟨fun bytes h => ?_, fun bytes h => ?_, fun bytes h => ?_, fun h => ?_⟩
  · obtain rfl | rfl : bytes = [0x05#8] ∨ bytes = [0x04#8] := by simpa using h
    · exact ⟨.clr, rfl⟩
    · exact ⟨.rdt, rfl⟩
  · obtain rfl | rfl : bytes = [0x05#8] ∨ bytes = [0x04#8] := by simpa using h
    · exact ⟨.clr, rfl, by simp⟩
    · exact ⟨.rdt, rfl, by simp⟩
  · obtain rfl : bytes = [0x08#8] := by simpa using h
    exact ⟨.illegal 0x08#8, rfl⟩
  · obtain ⟨i, hd, hi⟩ := h [0x08#8] (by simp)
    have hd' : decodeCommand [0x08#8] = .ok (.illegal 0x08#8, []) := rfl
    rw [hd'] at hd
    cases hd
    exact hi _ rfl

/-- Byte 15 of a kind-1 frame is unused under LAYOUT_DEFAULT, byte 3 is not. -/
theorem witness_EncKind1WritesItsField :
    ¬Occupied layoutDefault 0x01#8 15 ∧ Occupied layoutDefault 0x01#8 3 := by
  refine ⟨?_, .voltage, by decide⟩
  rintro ⟨F, h⟩
  cases F <;> revert h <;> decide

theorem witness_EncKind0WritesItsFields : ¬Occupied layoutDefault 0x00#8 9 ∧ Occupied layoutDefault 0x00#8 8 := by
  refine ⟨?_, .id, by decide⟩
  rintro ⟨F, h⟩
  cases F <;> revert h <;> decide

theorem witness_EncKind4WritesItsField : ¬Occupied layoutDefault 0x04#8 3 ∧ Occupied layoutDefault 0x04#8 2 := by
  refine ⟨?_, .ctrlTemp, by decide⟩
  rintro ⟨F, h⟩
  cases F <;> revert h <;> decide

theorem witness_EncKind13WritesItsFields : ¬Occupied layoutHigh 0x0D#8 3 ∧ Occupied layoutHigh 0x0D#8 15 := by
  refine ⟨?_, .throttle, by decide⟩
  rintro ⟨F, h⟩
  cases F <;> revert h <;> decide

theorem witness_EncUnknownKindZeroFills :
    0x13#8 ∉ [0x00#8, 0x01#8, 0x04#8, 0x0D#8] ∧ 0xFF#8 ∉ [0x00#8, 0x01#8, 0x04#8, 0x0D#8] ∧ (zeros 13).length = 13 := by
  decide

/-- Two different value blocks that agree on kind 1's field. -/
theorem witness_EncodeReadsOnlyOwnedFields :
    (∀ F : Field, F.owner.kind = 0x01#8 → getField { zeroBlock with voltage := 900 } F =
      getField { zeroBlock with voltage := 900, rpm := 1200, motorTemp := 45 } F) ∧
    ({ zeroBlock with voltage := 900 } : ValueBlock) ≠ { zeroBlock with voltage := 900, rpm := 1200, motorTemp := 45 } := by
  refine ⟨fun F h => ?_, by decide⟩
  cases F <;> revert h <;> decide

theorem witness_EncNeedsNoState : isEnc (.encK4 zeroBlock) = true ∧ isEnc (.encUnknown 0x02#8 zeroBlock) = true := by
  decide

theorem witness_EncFramesUnderDefaultLayout : folding13.config.layout = layoutDefault := by decide

theorem witness_DecodeRejectsWrongLength :
    (zeros 15).length ≠ 16 ∧ (zeros 17).length ≠ 16 ∧ ([] : List Byte).length ≠ 16 := by decide

theorem witness_DecodeRejectsBadHeader : 0xAB#8 ≠ 0xAA#8 ∧ 0x00#8 ≠ 0xAA#8 := by decide

theorem witness_DecodeExtractsItsFields :
    frameE1 = 0xAA#8 :: 0x00#8 :: (#v[0x03#8, 0x04#8, 0xB0#8, 0xFB#8, 0x2E#8, 0x01#8, 0xF4#8, 0, 0, 0, 0, 0, 0, 0] :
      Payload).toList ∧
    frameD3 (zeros 12) = 0xAA#8 :: 0x01#8 :: (#v[0x03#8, 0x84#8, 0, 0, 0, 0, 0, 0, 0, 0, 0, 0, 0, 0] : Payload).toList ∧
    [0xAA#8, 0x04#8] ++ zeros 14 = 0xAA#8 :: 0x04#8 :: zeroPayload.toList ∧
    [0xAA#8, 0x0D#8] ++ zeros 14 = 0xAA#8 :: 0x0D#8 :: zeroPayload.toList := by decide

theorem witness_DecodeUnknownKindKeepsPayload :
    0x02#8 ∉ [0x00#8, 0x01#8, 0x04#8, 0x0D#8] ∧ 0xAA#8 ∉ [0x00#8, 0x01#8, 0x04#8, 0x0D#8] := by decide

theorem witness_DecRunsTheFrameRowOfItsInput :
    frameE1.length ≤ 255 ∧ (given ([0x02#8, 0x10#8] ++ frameE1)).input =
      .present (0x02#8 :: BitVec.ofNat 8 frameE1.length :: frameE1) :: [] := by decide

/-- The frames of D3 and D5: same head and used bytes, other padding. -/
theorem witness_DecodeIgnoresUnusedBytes :
    ∃ f g : Frame, f[0] = g[0] ∧ f[1] = g[1] ∧ knownKind f[1] = true ∧ f ≠ g ∧ f[0] = 0xAA#8 ∧
      ∀ j (h : j < 16), Occupied layoutDefault f[1] j → f[j] = g[j] := by
  refine ⟨#v[0xAA#8, 0x01#8, 0x03#8, 0x84#8, 0, 0, 0, 0, 0, 0, 0, 0, 0, 0, 0, 0],
    #v[0xAA#8, 0x01#8, 0x03#8, 0x84#8, 0x12#8, 0, 0, 0, 0, 0, 0, 0, 0, 0, 0, 0x44#8], rfl, rfl, by decide, by decide,
    rfl, ?_⟩
  rintro j hj ⟨F, ho, h1, h2⟩
  have hF : F = .voltage := by
    have ho' : F.owner.kind = 0x01#8 := ho
    clear h1 h2 ho hj
    cases F <;> revert ho' <;> decide
  subst hF
  have h1' : 2 ≤ j := h1
  have h2' : j < 4 := h2
  obtain rfl | rfl : j = 2 ∨ j = 3 := by omega
  all_goals rfl

theorem witness_DecodeAfterEncodeIsIdentity : 0x07#8 ∉ [0x00#8, 0x01#8, 0x04#8, 0x0D#8] := by decide

/-- The peer's LAYOUT is another one, and the value decoded is not the value sent. -/
theorem witness_LayoutDisagreementIsNotDetected :
    0x01#8 ∈ [0x00#8, 0x01#8, 0x04#8, 0x0D#8] ∧
    decodeInput layoutHigh (encodeFrame layoutDefault 0x01#8 { zeroBlock with voltage := 900 }).toList = .known1 0 := by
  decide

theorem witness_EncodeAfterDecodeZeroesUnusedBytes :
    ∃ f g : Frame, f[0] = 0xAA#8 ∧
      decodeInput layoutDefault f.toList = .known1 ({ zeroBlock with voltage := 900 } : ValueBlock).voltage ∧
      g[0] = 0xAA#8 ∧ knownKind g[1] = false :=
  ⟨#v[0xAA#8, 0x01#8, 0x03#8, 0x84#8, 0x12#8, 0, 0, 0, 0, 0, 0, 0, 0, 0, 0, 0x44#8],
    #v[0xAA#8, 0x02#8, 0x11#8, 0, 0, 0, 0, 0, 0, 0, 0, 0, 0, 0, 0, 0xEE#8], by decide, by decide, by decide, by decide⟩

theorem witness_DecfFoldsAKnownKind : folding13.ctrl.foldEn = true := by decide

theorem witness_DecfWithoutFoldEnIsDec :
    isDecf (.decf (frameD3 (zeros 12))) = true ∧
    decodeInputOf (.decf (frameD3 (zeros 12))) = some (frameD3 (zeros 12)) ∧ State.reset.ctrl.foldEn = false := by decide

/-- One input for each of the three cases. -/
theorem witness_DecfOfErrorOrUnknownWritesNothing :
    (zeros 15).length ≠ 16 ∧ (zeros 16)[0]? ≠ some 0xAA#8 ∧
    ∃ k, ([0xAA#8, 0x02#8] ++ zeros 14)[1]? = some k ∧ k ∉ [0x00#8, 0x01#8, 0x04#8, 0x0D#8] :=
  ⟨by decide, by decide, 0x02#8, by decide⟩

theorem witness_DecfIsIdempotentOnTheBank : isDecf (.decfK0 zeroPayload) = true ∧ isDecf (.decf []) = true := by decide

theorem witness_StreamingFidelity :
    folding13.ctrl.foldEn = true ∧ folding13.trb.valid13 = true ∧ folding13.trb.motorTemp = some 0x2D#8 ∧
    ({ zeroBlock with voltage := 900 } : ValueBlock).voltage = 900 ∧
    ({ zeroBlock with rpm := 1200 } : ValueBlock).rpm = 1200 := by decide

/-- From FOLD_EN = 1 with bit 0 clear, and from FOLD_EN = 0 with bit 0 set: each folds on one side of the WRCTL only. -/
theorem witness_WrctlOrdersFolds :
    0x04#8 ∈ [0x00#8, 0x01#8, 0x04#8, 0x0D#8] ∧
    [(folding13, 0xFE#8), (State.reset, 0x01#8)].map (fun (p : State × Byte) =>
      let b := (encodeFrame p.1.config.layout 0x04#8 zeroBlock).toList
      ((nextOf (exec (.decf b) p.1)).map (fun t => t.trb.valid4),
       ((nextOf (exec (.wrctl p.2) p.1)).bind (fun t => nextOf (exec (.decf b) t))).map (fun u => u.trb.valid4))) =
      [(some true, some false), (some false, some true)] := by decide

/-- A bank with valid and invalid groups. -/
theorem witness_RdtReturnsTheSnapshot :
    folding13.trb.valid13 = true ∧ folding13.trb.valid0 = false ∧ folding13.trb.valid1 = false ∧
    folding13.trb.valid4 = false ∧
    ({ bankF1 with valid0 := true, valid4 := true } : TRB).valid0 = true ∧ bankF1.valid1 = true ∧
    ({ bankF1 with valid0 := true, valid4 := true } : TRB).valid4 = true ∧ bankF1.valid13 = false := by decide

theorem witness_IllegalOpcodeIsAnsweredAlone :
    (0x00#8 = 0x00#8 ∨ 0x08#8 ≤ 0x00#8) ∧ (0x08#8 = 0x00#8 ∨ 0x08#8 ≤ 0x08#8) ∧ (0xFF#8 = 0x00#8 ∨ 0x08#8 ≤ 0xFF#8) ∧
    (State.reset.withInput [.present [0x08#8], .present [0x04#8]]).input = .present [0x08#8] :: [.present [0x04#8]] ∧
    decodeCommand [0x04#8] = .ok (.rdt, []) := by decide

/-- An instruction for each status code: well-formed, answered once, with that code. -/
theorem witness_StatusesComeFromTheirRows :
    [Instr.rdt, .dec ([0xAA#8, 0x02#8] ++ zeros 14), .dec [], .dec (zeros 16), .illegal 0xFF#8].map
      (fun i => (i.wf, (nextOf (exec i State.reset)).map (fun t => t.responses.map (fun r => r.status)))) =
      [(true, some [.ok]), (true, some [.okUnknownKind]), (true, some [.errWrongLength]), (true, some [.errBadHeader]),
       (true, some [.errIllegalCmd])] := by decide

theorem witness_ErrorsChangeNoState :
    exec (.illegal 0xFF#8) folding13 = .next (folding13.withResponse ⟨.errIllegalCmd, false, .empty⟩) ∧
    (folding13.withResponse ⟨.errIllegalCmd, false, .empty⟩).responses =
      folding13.responses ++ [⟨.errIllegalCmd, false, .empty⟩] := ⟨rfl, rfl⟩

/-- A fold, and an instruction that is none. -/
theorem witness_FoldedFlagMarksAFold :
    (nextOf (exec (.decfK4 zeroPayload) folding13)).map (fun t => t.responses.map (fun r => r.folded)) = some [true] ∧
    FoldsGroup (.decfK4 zeroPayload) folding13 .g4 ∧
    (nextOf (exec .rdt folding13)).map (fun t => t.responses.map (fun r => r.folded)) = some [false] :=
  ⟨by decide, ⟨rfl, rfl, _, rfl, by decide⟩, by decide⟩

/-- An instruction for each case and each length of R87; the bank has valid and invalid groups. The data bytes of the cases
are those of the vectors tested above. -/
theorem witness_ResponseLengths :
    [Instr.encK0 zeroBlock, .decfK0 zeroPayload, .frameK1 zeroPayload, .dec ([0xAA#8, 0x04#8] ++ zeros 14),
     .decfK13 zeroPayload, .frameUnknown 0x02#8 zeroPayload, .rdt, .rdctl, .clr, .wrctl 0, .dec [],
     .dec (zeros 16), .illegal 0x00#8].map
      (fun i => (i.wf, (nextOf (exec i folding13)).map (fun t => t.responses.map (fun r => r.bytes.length)))) =
      [18, 10, 5, 4, 6, 17, 16, 3, 2, 2, 2, 2, 2].map (fun n => (true, some [n])) := by decide

theorem witness_ResetEventRestoresTrbAndCtrl :
    (folding13.withInput [.reset, .present [0x04#8]]).input = .reset :: [.present [0x04#8]] := by decide

/-- An ill-formed table and a well-formed one that is not LAYOUT_DEFAULT. -/
theorem witness_BuildRefusesIllFormedLayout :
    State.build { layoutDefaultTable with throttle := 15 } false = .refused .illFormedLayout ∧
    ¬LayoutWellFormed { layoutDefaultTable with throttle := 15 } ∧
    State.build layoutHigh.table true = .next (State.ofConfig ⟨layoutHigh, true⟩) ∧ layoutHigh ≠ layoutDefault :=
  ⟨rfl, fun h => absurd (h.1 .throttle).2 (by decide), rfl, by decide⟩

theorem folding13_inv : folding13.Inv := by constructor <;> rfl

theorem witness_StepKeepsBankConsistent :
    (folding13.withInput [.present [0x05#8]]).Inv ∧
    step (folding13.withInput [.present [0x05#8]]) =
      .next ((State.reset.withCtrl ⟨true⟩).withResponse ⟨.ok, false, .empty⟩) :=
  ⟨folding13_inv, rfl⟩

/-- A step that folds another group. -/
theorem witness_GroupKeepsItsLastFold :
    ∃ (s t : State) (bytes : List Byte), s.input = [.present bytes] ∧ step s = .next t ∧ t.trb ≠ s.trb ∧
      (∀ es, s.input ≠ .reset :: es) ∧
      ∀ bytes es i rest, s.input = .present bytes :: es → decodeCommand bytes = .ok (i, rest) →
        i ≠ .clr ∧ ¬FoldsGroup i s .g13 := by
  refine ⟨folding13.withInput [.present ([0x03#8, 0x10#8, 0xAA#8, 0x04#8] ++ zeros 14)], _, _, rfl, rfl, by decide,
    fun es h => ?_, ?_⟩
  · cases h
  rintro bytes es i rest h hd
  obtain ⟨rfl, rfl⟩ : [0x03#8, 0x10#8, 0xAA#8, 0x04#8] ++ zeros 14 = bytes ∧ [] = es := by
    simpa [State.withInput] using h
  obtain ⟨rfl, rfl⟩ : Instr.decfK4 zeroPayload = i ∧ [] = rest := by
    have : decodeCommand ([0x03#8, 0x10#8, 0xAA#8, 0x04#8] ++ zeros 14) = .ok (.decfK4 zeroPayload, []) := by decide
    rw [this] at hd
    simpa using hd
  refine ⟨by decide, ?_⟩
  rintro ⟨-, -, b, hb, hk⟩
  cases hb
  revert hk
  decide

/-- An instruction under each clause. -/
theorem witness_ReadsHaveNoSideEffect :
    isDecf .rdt = false ∧ Instr.rdt ≠ .clr ∧ (∀ v, Instr.rdt ≠ .wrctl v) ∧
    isDecf (.frameK0 zeroPayload) = false ∧ Instr.frameK0 zeroPayload ≠ .clr ∧
    (∀ v, Instr.frameK0 zeroPayload ≠ .wrctl v) ∧ (∀ v, Instr.clr ≠ .wrctl v) := by
  refine ⟨by decide, by decide, ?_, by decide, by decide, ?_, ?_⟩ <;> intro v h <;> cases h

/-- Two states that differ in all that is hidden. -/
theorem witness_NothingHiddenIsRead :
    ∃ s s' : State, s.config.layout = s'.config.layout ∧ s.trb = s'.trb ∧ s.ctrl = s'.ctrl ∧
      s.config.rpmSigned ≠ s'.config.rpmSigned ∧ s.input ≠ s'.input ∧ s.responses ≠ s'.responses :=
  ⟨State.ofConfig ⟨layoutDefault, true⟩, (given [0x04#8]).withResponse ⟨.ok, false, .empty⟩, by decide⟩

/-- A field whose group is invalid and one whose group is valid, in one state that meets the invariant. -/
theorem witness_ConsumerReadFaultsOnInvalidGroup :
    folding13.Inv ∧ groupValid folding13.trb Field.gear.owner = false ∧
    consumerRead folding13 .gear = .error (.invalidGroupRead .gear) ∧
    groupValid folding13.trb Field.motorTemp.owner = true ∧ consumerRead folding13 .motorTemp = .ok 0x2D#8 :=
  ⟨folding13_inv, rfl, rfl, rfl, rfl⟩

/-- The last offset of a one-byte access and of a two-byte access, and bytes outside them. -/
theorem witness_MemReadAndMemWriteAreBigEndian :
    memRead1 (memWrite1 (blankFrame 0x01#8) 15 0x44#8 (by decide)) 15 (by decide) = 0x44#8 ∧
    (memWrite1 (blankFrame 0x01#8) 15 0x44#8 (by decide))[14] = 0x00#8 ∧
    memRead2 (memWrite2 (blankFrame 0x01#8) 14 0x0384#16 (by decide)) 14 (by decide) = 0x0384#16 ∧
    (memWrite2 (blankFrame 0x01#8) 14 0x0384#16 (by decide))[14] = 0x03#8 ∧
    (memWrite2 (blankFrame 0x01#8) 14 0x0384#16 (by decide))[13] = 0x00#8 := by decide

/-- Both ends of each kind of range, and one beyond. -/
theorem witness_FrontEndNeverWraps :
    fieldOfInt true .ctrlTemp (-128) = some 0x80#8 ∧ fieldOfInt true .ctrlTemp (-129) = none ∧
    fieldOfInt true .motorTemp 127 = some 0x7F#8 ∧ fieldOfInt true .motorTemp 128 = none ∧
    fieldOfInt true .gear 255 = some 0xFF#8 ∧ fieldOfInt true .gear 256 = none ∧ fieldOfInt true .gear (-1) = none ∧
    fieldOfInt true .rpm (-32768) = some 0x8000#16 ∧ fieldOfInt true .rpm 32768 = none ∧
    fieldOfInt false .rpm 65535 = some 0xFFFF#16 ∧ fieldOfInt false .rpm (-1) = none ∧
    fieldOfInt false .voltage 65535 = some 0xFFFF#16 ∧ fieldOfInt false .voltage 65536 = none ∧
    spelledValue .rpm (-32768) = some 0x8000#16 ∧ spelledValue .rpm 65536 = none ∧
    spelledValue .rpm (-32769) = none := by decide

theorem witness_AssembledCommandsAreWellFormed : assembleLine layoutDefault "RDT".toList = .ok (some .rdt) := by decide

/-- Two links, the second one stepping, and being presented with: a second command is refused, a reset is not. -/
theorem witness_LinksShareNothing :
    (⟨[folding13, given [0x04#8]]⟩ : System).stepLink ⟨1, by decide⟩ =
      .next ⟨[folding13, State.reset.withResponse ⟨.ok, false, .telemetry 0x00#8
        ⟨none, none, none, none, none, none, none, none⟩⟩]⟩ ∧
    (⟨[folding13, given [0x04#8]]⟩ : System).present ⟨1, by decide⟩ (.present [0x05#8]) = .refused .commandOverlap ∧
    (⟨[folding13, given [0x04#8]]⟩ : System).present ⟨0, by decide⟩ (.present [0x05#8]) =
      .next ⟨[folding13.withInput [.present [0x05#8]], given [0x04#8]]⟩ := ⟨rfl, rfl, rfl⟩

end Sys2Proof.Tests
end

