-- ==== Sys2Proof/Proofs/Scope.lean ====
section
/-! PROOFS of the scope family: an error changes no state (O44), what an instruction's effect depends on (O54), MemRead and
MemWrite (O56), and the independence of the links (O60). -/

namespace Sys2Proof.Machine

/-! ### A response is either a success or a bare error -/

/-- A response that reports no error: OK or OK_UNKNOWN_KIND (R180). -/
def Response.Succeeds (r : Response) : Prop := r.status = .ok ∨ r.status = .okUnknownKind

/-- The response of `raise e` (R13, R186): no data, folded 0. -/
def errorResponse (e : Status) : Response := { status := e, folded := false, data := .empty }

/-- What an instruction's outcome is like as to errors: one success response, or an error response and no other change. -/
def SucceedsOrOnlyErrs (s : State) (o : Result) : Prop :=
  (∃ t r, o = .next t ∧ t.responses = s.responses ++ [r] ∧ r.Succeeds) ∨
  ∃ e, o = .next (s.withResponse (errorResponse e))

/-- The response of a decode result, unfolded, is a success or a bare error. -/
theorem responseOf_succeeds_or_error (d : DecodeResult) :
    (∀ folded, (responseOf d folded).Succeeds) ∨ (isKnown d = false ∧ ∃ e, responseOf d false = errorResponse e) := by
  cases d with
  | known0 | known1 | known4 | known13 => exact .inl fun _ => .inl rfl
  | unknown => exact .inl fun _ => .inr rfl
  | errWrongLength | errBadHeader => exact .inr ⟨rfl, _, rfl⟩

/-- R120: answering a decode result without folding. -/
theorem respond_responseOf_succeedsOrOnlyErrs (s : State) (d : DecodeResult) :
    SucceedsOrOnlyErrs s (respond s (responseOf d false)) := by
  rcases responseOf_succeeds_or_error d with h | ⟨-, e, he⟩
  · exact .inl ⟨_, _, rfl, rfl, h false⟩
  · exact .inr ⟨e, by rw [he, respond_eq]⟩

/-- R150, R154: an error result folds nothing. -/
theorem decodeAndFold_succeedsOrOnlyErrs (s : State) (d : DecodeResult) :
    SucceedsOrOnlyErrs s (decodeAndFold s d) := by
  rcases decodeAndFold_cases s d with ⟨-, hk, h⟩ | ⟨-, h⟩
  · rcases responseOf_succeeds_or_error d with hs | ⟨hu, -⟩
    · exact .inl ⟨_, _, h, rfl, hs true⟩
    · rw [hk] at hu
      cases hu
  · rw [h]
    exact respond_responseOf_succeedsOrOnlyErrs s d

/-- R13, R186: an instruction answers a success, or raises an error and does nothing else. -/
theorem exec_succeedsOrOnlyErrs (i : Instr) (s : State) : SucceedsOrOnlyErrs s (exec i s) := by
  cases i with
  | frameInvalidLength | frameBadHeader | illegal => exact .inr ⟨_, rfl⟩
  | frameK0 | frameK1 | frameK4 | frameK13 | frameUnknown | dec =>
    exact respond_responseOf_succeedsOrOnlyErrs s _
  | decf | decfK0 | decfK1 | decfK4 | decfK13 => exact decodeAndFold_succeedsOrOnlyErrs s _
  | encK0 | encK1 | encK4 | encK13 | encUnknown | rdt | clr | wrctl | rdctl =>
    exact .inl ⟨_, _, rfl, rfl, .inl rfl⟩

/-- A success has none of the three error statuses. -/
theorem Response.Succeeds.not_error {r : Response} (h : r.Succeeds) :
    ¬(r.status = .errWrongLength ∨ r.status = .errBadHeader ∨ r.status = .errIllegalCmd) := by
  rcases h with h | h <;> simp [h]

/-- Settles O44: of the two outcomes of an instruction, only the bare error has an error status. -/
theorem errorsChangeNoState : Obligations.ErrorsChangeNoState := by
  unfold Obligations.ErrorsChangeNoState
  intro i s t r hexec hresp herr
  rcases exec_succeedsOrOnlyErrs i s with ⟨t', r', ht', hr', hok⟩ | ⟨e, he⟩
  · obtain rfl : t = t' := by simpa [hexec] using ht'
    obtain rfl : r = r' := by simpa [hresp] using hr'
    exact absurd herr hok.not_error
  · obtain rfl : t = s.withResponse (errorResponse e) := by simpa [hexec] using he
    obtain rfl : errorResponse e = r := by simpa using hresp
    exact ⟨rfl, rfl, rfl⟩

/-! ### An instruction's effect depends on LAYOUT, TRB and CTRL alone -/

/-- Two outcomes, of instructions run in `s` and in `s'`, with the same effect: the same response, TRB and CTRL. -/
def SameEffect (s s' : State) (o o' : Result) : Prop :=
  ∃ t c r, o = .next (((s.withTrb t).withCtrl c).withResponse r) ∧
    o' = .next (((s'.withTrb t).withCtrl c).withResponse r)

section
variable {s s' : State} (htrb : s.trb = s'.trb) (hctrl : s.ctrl = s'.ctrl)
include htrb hctrl

/-- A bare answer has the same effect wherever TRB and CTRL agree. -/
theorem respond_sameEffect {r r' : Response} (hr : r = r') : SameEffect s s' (respond s r) (respond s' r') := by
  refine ⟨s.trb, s.ctrl, r, rfl, ?_⟩
  rw [htrb, hctrl, hr]
  rfl

/-- R151: whether a DECF folds depends on FOLD_EN and on its result, and what it folds into is the TRB. -/
theorem decodeAndFold_sameEffect {d d' : DecodeResult} (hd : d = d') :
    SameEffect s s' (decodeAndFold s d) (decodeAndFold s' d') := by
  subst hd
  rcases decodeAndFold_cases s d with ⟨hen, hk, h⟩ | ⟨hen | hk, h⟩
  · refine ⟨foldResult s.trb d, s.ctrl, responseOf d true, h, ?_⟩
    rw [htrb, hctrl, decodeAndFold_on s' d (hctrl ▸ hen) hk]
    rfl
  · rw [h, decodeAndFold_off s' d (hctrl ▸ hen)]
    exact respond_sameEffect htrb hctrl rfl
  · rw [h, decodeAndFold_unknown s' d hk]
    exact respond_sameEffect htrb hctrl rfl

/-- R7, R29, R37: an instruction reads LAYOUT, the TRB and CTRL, and nothing else. -/
theorem exec_sameEffect (hlayout : s.config.layout = s'.config.layout) (i : Instr) :
    SameEffect s s' (exec i s) (exec i s') := by
  cases i with
  | frameInvalidLength | frameBadHeader | frameUnknown | illegal => exact respond_sameEffect htrb hctrl rfl
  | frameK0 | frameK1 | frameK4 | frameK13 | dec | encK0 | encK1 | encK4 | encK13 | encUnknown =>
    exact respond_sameEffect htrb hctrl (by rw [hlayout])
  | decf | decfK0 | decfK1 | decfK4 | decfK13 => exact decodeAndFold_sameEffect htrb hctrl (by rw [hlayout])
  | rdt => exact respond_sameEffect htrb hctrl (by rw [htrb])
  | rdctl => exact respond_sameEffect htrb hctrl (by rw [hctrl])
  | clr => exact ⟨TRB.reset, s.ctrl, okResponse .empty, rfl, by rw [hctrl]; rfl⟩
  | wrctl v => exact ⟨s.trb, Ctrl.ofByte v, okResponse .empty, rfl, by rw [htrb]; rfl⟩

end

/-- Settles O54: two runs with the same effect agree on the response, the TRB and CTRL. -/
theorem nothingHiddenIsRead : Obligations.NothingHiddenIsRead := by
  unfold Obligations.NothingHiddenIsRead
  intro i s s' hlayout htrb hctrl
  obtain ⟨t, c, r, h, h'⟩ := exec_sameEffect htrb hctrl hlayout i
  exact ⟨_, _, r, h, h', rfl, rfl, rfl, rfl⟩

/-! ### MemRead and MemWrite -/

/-- R11: the high byte read is the one at the lower offset. -/
@[simp] theorem hiByte_memRead2 (b : Frame) (o : Nat) (h : o + 1 < 16) : hiByte (memRead2 b o h) = b[o] := by
  rw [memRead2_eq, hiByte_join]

/-- R11: the low byte read is the one at the higher offset. -/
@[simp] theorem loByte_memRead2 (b : Frame) (o : Nat) (h : o + 1 < 16) : loByte (memRead2 b o h) = b[o + 1] := by
  rw [memRead2_eq, loByte_join]

/-- R11: a one-byte read after a write of the same offset gives the value written. -/
@[simp] theorem memRead1_memWrite1 (b : Frame) (o : Nat) (x : Byte) (h : o < 16) :
    memRead1 (memWrite1 b o x h) o h = x := by
  rw [memRead1_eq, memWrite1_getElem, if_pos rfl]

@[simp] theorem memWrite2_getElem_lower (b : Frame) (o : Nat) (v : Half) (h : o + 1 < 16) :
    (memWrite2 b o v h)[o] = hiByte v := by
  rw [memWrite2_getElem, if_neg (by omega), if_pos rfl]

@[simp] theorem memWrite2_getElem_higher (b : Frame) (o : Nat) (v : Half) (h : o + 1 < 16) :
    (memWrite2 b o v h)[o + 1] = loByte v := by
  rw [memWrite2_getElem, if_pos rfl]

/-- R11: a two-byte read after a write of the same offset gives the value written. -/
@[simp] theorem memRead2_memWrite2 (b : Frame) (o : Nat) (v : Half) (h : o + 1 < 16) :
    memRead2 (memWrite2 b o v h) o h = v := by
  rw [memRead2_eq, memWrite2_getElem_lower, memWrite2_getElem_higher, joinBytes_hi_lo]

/-- Settles O56: the read-after-write laws of both widths, and the bytes a write leaves alone. -/
theorem memReadAndMemWriteAreBigEndian : Obligations.MemReadAndMemWriteAreBigEndian := by
  unfold Obligations.MemReadAndMemWriteAreBigEndian
  refine ⟨fun b o h x => ?_, fun b o h v => ?_⟩
  · refine ⟨memRead1_eq b o h, memRead1_memWrite1 b o x h, memRead1_memWrite1 b o x h, fun j hj hne => ?_⟩
    rw [memWrite1_getElem, if_neg hne.symm]
  · refine ⟨hiByte_memRead2 b o h, loByte_memRead2 b o h, memWrite2_getElem_lower b o v h,
      memWrite2_getElem_higher b o v h, memRead2_memWrite2 b o v h, fun j hj hlo hhi => ?_⟩
    rw [memWrite2_getElem, if_neg hhi.symm, if_neg hlo.symm]

/-! ### Links -/

/-- R36: the command events are the presented byte sequences. -/
theorem HostEvent.isCommand_iff (e : HostEvent) : e.isCommand = true ↔ ∃ bytes, e = .present bytes := by
  cases e <;> simp [HostEvent.isCommand]

/-- R36: a command is unanswered exactly when one stands in the input. -/
theorem any_isCommand_iff (es : List HostEvent) :
    es.any HostEvent.isCommand = true ↔ ∃ bytes, HostEvent.present bytes ∈ es := by
  simp only [List.any_eq_true, HostEvent.isCommand_iff]
  exact ⟨fun ⟨_, hmem, bytes, he⟩ => ⟨bytes, he ▸ hmem⟩, fun ⟨bytes, hmem⟩ => ⟨_, hmem, bytes, rfl⟩⟩

/-- The system with another state of one link. -/
def System.setLink (y : System) (k : Fin y.links.length) (t : State) : System := ⟨y.links.set k t⟩

section
variable (y : System) (k : Fin y.links.length) (t : State)

@[simp] theorem System.setLink_nLinks : (y.setLink k t).nLinks = y.nLinks := List.length_set

@[simp] theorem System.setLink_same : (y.setLink k t).links[k.val]? = some t := List.getElem?_set_self k.isLt

/-- R194: the other links keep their states. -/
theorem System.setLink_other (j : Nat) (hj : j ≠ k.val) : (y.setLink k t).links[j]? = y.links[j]? :=
  List.getElem?_set_ne hj.symm

end

/-- R194: a system's step that goes on is a step of the one link. -/
theorem System.stepLink_next (y z : System) (k : Fin y.links.length) (h : y.stepLink k = .next z) :
    ∃ t, step y.links[k] = .next t ∧ z = y.setLink k t := by
  unfold System.stepLink at h
  cases hs : step y.links[k] with
  | next t =>
    rw [hs] at h
    cases h
    exact ⟨t, rfl, rfl⟩
  | fault | refused =>
    rw [hs] at h
    cases h

/-- R36, R205: what a move on one link does to the system. -/
theorem System.present_cases (y : System) (k : Fin y.links.length) (e : HostEvent) :
    (((∃ bytes, e = .present bytes) ∧ ∃ bytes, HostEvent.present bytes ∈ y.links[k].input) ∧
      y.present k e = .refused .commandOverlap) ∨
    (¬((∃ bytes, e = .present bytes) ∧ ∃ bytes, HostEvent.present bytes ∈ y.links[k].input) ∧
      y.present k e = .next (y.setLink k (y.links[k].withInput (y.links[k].input ++ [e])))) := by
  rw [← HostEvent.isCommand_iff, ← any_isCommand_iff]
  unfold System.present
  rcases Machine.present_cases y.links[k] e with ⟨he, hin, h⟩ | ⟨hno, h⟩
  · exact .inl ⟨⟨he, hin⟩, by rw [h]⟩
  · exact .inr ⟨not_and_or.mpr (hno.imp Bool.eq_false_iff.mp Bool.eq_false_iff.mp), by rw [h]; rfl⟩

/-- Settles O60: both operations of a system replace the state of one link. -/
theorem linksShareNothing : Obligations.LinksShareNothing := by
  unfold Obligations.LinksShareNothing
  intro y z k
  constructor
  · intro h
    obtain ⟨t, ht, rfl⟩ := y.stepLink_next z k h
    exact ⟨by simpa using ht, y.setLink_nLinks k t, y.setLink_other k t⟩
  · intro e
    rcases y.present_cases k e with ⟨hcmd, h⟩ | ⟨hno, h⟩
    · rw [h]
      exact ⟨nofun, iff_of_true rfl hcmd, fun hne => absurd rfl hne⟩
    · rw [h]
      refine ⟨?_, iff_of_false nofun hno, fun _ => ⟨_, rfl⟩⟩
      rintro ⟨⟩
      exact ⟨y.setLink_same k _, y.setLink_nLinks k _, y.setLink_other k _⟩

end Sys2Proof.Machine
end

