-- ==== Sys2Proof/Proofs/State.lean ====
section
/-! PROOFS of the state family: the bank's invariant (O50, O51, O55), what a fold writes and what else keeps a group (O52),
the one response of an instruction and what it leaves unchanged (O10, O53), the folded flag (O45), the step on one command
(O7) and the state after reset (O47). -/

namespace Sys2Proof.Machine

/-! ### The bank's invariant, field by field -/

/-- R23: the invariant says of every field that it holds a value exactly while its owner's valid flag is 1. -/
theorem TRB.consistent_iff (t : TRB) : t.Consistent ↔ ∀ F : Field, (bankField t F).isSome = groupValid t F.owner := by
  constructor
  · rintro ⟨hgear, hrpm, hiq, hid, hvoltage, hctrlTemp, hmotorTemp, hthrottle⟩ F
    cases F <;> assumption
  · exact fun h => ⟨h .gear, h .rpm, h .iq, h .id, h .voltage, h .ctrlTemp, h .motorTemp, h .throttle⟩

/-- R23, R28: the reset bank has no valid group and no value. -/
theorem TRB.reset_consistent : TRB.reset.Consistent := by constructor <;> rfl

/-- Settles O50: State.reset has the reset bank. -/
theorem resetBankIsConsistent : Obligations.ResetBankIsConsistent := TRB.reset_consistent

/-- Settles O47: each part is a reset value, read off. -/
theorem resetLeavesBankInvalidAndFoldingOff : Obligations.ResetLeavesBankInvalidAndFoldingOff := ⟨rfl, rfl, rfl⟩

/-! ### A consumer's read -/

/-- R23, R185 (3): while the group is invalid, the read faults. -/
theorem consumerRead_invalid (s : State) (F : Field) (h : groupValid s.trb F.owner = false) :
    consumerRead s F = .error (.invalidGroupRead F) := by
  simp [consumerRead, bankValue, h]

/-- R23: while the group is valid, the read gives the value held. -/
theorem consumerRead_valid (s : State) (F : Field) (v : BitVec F.width) (h : groupValid s.trb F.owner = true)
    (hv : bankField s.trb F = some v) : consumerRead s F = .ok v := by
  simp [consumerRead, bankValue, h, hv]

/-- Settles O55: by the invariant, a valid group's field holds the value that the read gives. -/
theorem consumerReadFaultsOnInvalidGroup : Obligations.ConsumerReadFaultsOnInvalidGroup := by
  unfold Obligations.ConsumerReadFaultsOnInvalidGroup
  intro s F hinv
  cases hvalid : groupValid s.trb F.owner with
  | false => exact ⟨iff_of_true (consumerRead_invalid s F hvalid) rfl, nofun⟩
  | true =>
    obtain ⟨v, hv⟩ := Option.isSome_iff_exists.mp ((s.trb.consistent_iff.mp hinv F).trans hvalid)
    have hok := consumerRead_valid s F v hvalid hv
    exact ⟨iff_of_false (by simp [hok]) nofun, fun _ => ⟨v, hok, hv⟩⟩

/-! ### What a fold writes -/

/-- The group that a decode result belongs to (R131, R152); `none` for a result that is not Known_k. -/
def resultGroup : DecodeResult → Option Group
  | .known0 _ _ _ _ => some .g0
  | .known1 _ => some .g1
  | .known4 _ => some .g4
  | .known13 _ _ => some .g13
  | .unknown _ _ => none
  | .errWrongLength => none
  | .errBadHeader => none

/-- R151 (b): the results Known_k are those with a group. -/
theorem isKnown_eq_resultGroup (d : DecodeResult) : isKnown d = (resultGroup d).isSome := by cases d <;> rfl

/-- R151: an input of group `G` is a frame with G's kind byte. -/
theorem eq_frame_of_knownGroup (b : List Byte) (G : Group) (h : knownGroup b = some G) :
    ∃ p : Payload, b = 0xAA#8 :: G.kind :: p.toList := by
  match b with
  | [] | [_] => cases h
  | hd :: k :: rest =>
    simp only [knownGroup, Option.ite_none_right_eq_some, groupOf_eq_some] at h
    obtain ⟨⟨rfl, hlen⟩, rfl⟩ := h
    exact ⟨payloadOfList rest hlen, by rw [payloadOfList_toList]⟩

/-- R124: an extraction gives a result of the group that the kind byte selects. -/
theorem resultGroup_extract (L : Layout) (f : Frame) : resultGroup (extract L f) = groupOf f[1] := by
  unfold extract
  split <;> rename_i hg <;> rw [hg] <;> rfl

/-- R121, R151: the group of a decode result is the one its bytes select. -/
theorem resultGroup_decodeInput (L : Layout) (b : List Byte) : resultGroup (decodeInput L b) = knownGroup b := by
  cases hb : knownGroup b with
  | none =>
    have hk : isKnown (decodeInput L b) = false := by rw [isKnown_decodeInput, hb]; rfl
    rwa [isKnown_eq_resultGroup, Option.isSome_eq_false_iff, Option.isNone_iff_eq_none] at hk
  | some G =>
    obtain ⟨p, rfl⟩ := eq_frame_of_knownGroup b G hb
    rw [decodeInput_payload, resultGroup_extract, frameOf_one, groupOf_kind]

/-- R152: a fold sets its group's valid flag and gives each field of the group a value. -/
theorem foldResult_own (t : TRB) (d : DecodeResult) (F : Field) (h : resultGroup d = some F.owner) :
    groupValid (foldResult t d) F.owner = true ∧ (bankField (foldResult t d) F).isSome = true := by
  cases F <;> cases d <;> cases h <;> exact ⟨rfl, rfl⟩

/-- R21, R152: a fold writes no other group, and a result without a group writes nothing (R27). -/
theorem foldResult_other (t : TRB) (d : DecodeResult) (G : Group) (h : resultGroup d ≠ some G) :
    SameGroup (foldResult t d) t G := by
  cases d <;> cases G
  case known0.g0 | known1.g1 | known4.g4 | known13.g13 => exact absurd rfl h
  all_goals exact ⟨rfl, by rintro ⟨⟩ ⟨⟩ <;> rfl⟩

/-- R23, R152: a fold keeps the invariant: its own group is filled, and every other group is as before. -/
theorem foldResult_consistent (t : TRB) (d : DecodeResult) (ht : t.Consistent) : (foldResult t d).Consistent := by
  rw [TRB.consistent_iff] at ht ⊢
  intro F
  by_cases h : resultGroup d = some F.owner
  · obtain ⟨hvalid, hvalue⟩ := foldResult_own t d F h
    rw [hvalid, hvalue]
  · obtain ⟨hvalid, hfields⟩ := foldResult_other t d F.owner h
    rw [hvalid, hfields F rfl, ht F]

/-! ### The bank across an instruction and across a step -/

/-- What an instruction does to the bank: nothing, or it is CLR, or a DECF that folds its input's result. -/
theorem exec_trb_cases (i : Instr) (s t : State) (h : exec i s = .next t) :
    t.trb = s.trb ∨ (i = .clr ∧ t.trb = TRB.reset) ∨
    ∃ b, isDecf i = true ∧ decodeInputOf i = some b ∧ s.ctrl.foldEn = true ∧
      t.trb = foldResult s.trb (decodeInput s.config.layout b) := by
  rcases exec_cases i s with ⟨r, -, e⟩ | ⟨b, hd, hb, hen, -, e⟩ | ⟨hclr, e⟩ | ⟨v, -, e⟩ <;> rw [e] at h <;> cases h
  · exact .inl rfl
  · exact .inr (.inr ⟨b, hd, hb, hen, rfl⟩)
  · exact .inr (.inl ⟨hclr, rfl⟩)
  · exact .inl rfl

/-- A step that goes on is a reset event, or it runs the one command presented. -/
theorem step_next_cases (s t : State) (h : step s = .next t) :
    (∃ es, s.input = .reset :: es ∧ t = hostReset (s.withInput es)) ∨
    ∃ bytes es i, s.input = .present bytes :: es ∧ decodeCommand bytes = .ok (i, []) ∧
      exec i (s.withInput es) = .next t := by
  rcases step_cases s with ⟨-, e⟩ | ⟨es, hin, e⟩ | ⟨_, _, _, -, -, e⟩ | ⟨_, _, _, _, _, -, -, e⟩ |
    ⟨bytes, es, i, hin, hdec, e⟩ <;> rw [e] at h
  · cases h
  · cases h
    exact .inl ⟨es, hin, rfl⟩
  · cases h
  · cases h
  · exact .inr ⟨bytes, es, i, hin, hdec, h⟩

/-- R23: every instruction keeps the invariant. -/
theorem exec_keeps_inv (i : Instr) (s t : State) (hinv : s.Inv) (h : exec i s = .next t) : t.Inv := by
  unfold State.Inv at hinv ⊢
  rcases exec_trb_cases i s t h with e | ⟨-, e⟩ | ⟨b, -, -, -, e⟩ <;> rw [e]
  · exact hinv
  · exact TRB.reset_consistent
  · exact foldResult_consistent _ _ hinv

/-- Settles O51: a reset event leaves the reset bank, and the command a step runs keeps the invariant. -/
theorem stepKeepsBankConsistent : Obligations.StepKeepsBankConsistent := by
  unfold Obligations.StepKeepsBankConsistent
  intro s t hinv h
  rcases step_next_cases s t h with ⟨es, -, rfl⟩ | ⟨bytes, es, i, -, -, hexec⟩
  · exact TRB.reset_consistent
  · exact exec_keeps_inv i (s.withInput es) t hinv hexec

/-- R26: an instruction that is no CLR and no fold of `G` keeps G's flag and fields. -/
theorem exec_keeps_group (i : Instr) (s t : State) (G : Group) (h : exec i s = .next t) (hclr : i ≠ .clr)
    (hfold : ¬FoldsGroup i s G) : SameGroup t.trb s.trb G := by
  rcases exec_trb_cases i s t h with e | ⟨hi, -⟩ | ⟨b, hd, hb, hen, e⟩
  · rw [e]
    exact ⟨rfl, fun _ _ => rfl⟩
  · exact absurd hi hclr
  · rw [e]
    refine foldResult_other _ _ _ fun hG => hfold ⟨hd, hen, b, hb, ?_⟩
    rwa [resultGroup_decodeInput] at hG

/-- Settles O52: the step runs a command, which is no CLR and no fold of the group. -/
theorem groupKeepsItsLastFold : Obligations.GroupKeepsItsLastFold := by
  unfold Obligations.GroupKeepsItsLastFold
  intro s t G h hreset hcmd
  rcases step_next_cases s t h with ⟨es, hin, -⟩ | ⟨bytes, es, i, hin, hdec, hexec⟩
  · exact absurd hin (hreset es)
  · obtain ⟨hclr, hfold⟩ := hcmd bytes es i [] hin hdec
    exact exec_keeps_group i (s.withInput es) t G hexec hclr hfold

/-! ### One response, and what an instruction leaves unchanged -/

/-- Settles O10: an instruction's effect, on whatever state, is a TRB, a CTRL and one response. -/
theorem everyInstructionReturnsOneResponse : Obligations.EveryInstructionReturnsOneResponse := by
  unfold Obligations.EveryInstructionReturnsOneResponse
  intro i s
  obtain ⟨t, c, r, h, -⟩ := exec_sameEffect (s := s) rfl rfl rfl i
  exact ⟨_, r, h, rfl, rfl, rfl⟩

/-- Settles O53: the four things an instruction can do, each against the three clauses. -/
theorem readsHaveNoSideEffect : Obligations.ReadsHaveNoSideEffect := by
  unfold Obligations.ReadsHaveNoSideEffect
  intro i s
  rcases exec_cases i s with ⟨r, -, h⟩ | ⟨b, hd, -, -, -, h⟩ | ⟨hclr, h⟩ | ⟨v, hwr, h⟩ <;> refine ⟨_, _, h, rfl, ?_⟩
  · exact ⟨fun _ _ => rfl, fun _ => rfl, fun _ _ _ => rfl⟩
  · have hnot : isDecf i ≠ false := by simp [hd]
    exact ⟨fun hn => absurd hn hnot, fun _ => rfl, fun hn => absurd hn hnot⟩
  · exact ⟨fun _ hn => absurd hclr hn, fun _ => rfl, fun _ hn => absurd hclr hn⟩
  · exact ⟨fun _ _ => rfl, fun hn => absurd hwr (hn v), fun _ _ hn => absurd hwr (hn v)⟩

/-- Settles O7: `step` on the one command that `fetch` finds. -/
theorem stepRunsTheDecodedCommand : Obligations.StepRunsTheDecodedCommand := step_command

/-! ### The folded flag -/

/-- R151: a DECF row folds a group exactly when `folds` says so of its input's result. -/
theorem exists_foldsGroup_iff (i : Instr) (s : State) (b : List Byte) (hd : isDecf i = true)
    (hb : decodeInputOf i = some b) :
    (∃ G, FoldsGroup i s G) ↔ folds s (decodeInput s.config.layout b) = true := by
  simp [FoldsGroup, folds, hd, hb, isKnown_decodeInput, Option.isSome_iff_exists]

/-- R35, R151: the response of an instruction marks a fold, and nothing but a fold. -/
theorem exec_folded (i : Instr) (s : State) :
    ∃ t r, exec i s = .next t ∧ t.responses = s.responses ++ [r] ∧ (r.folded = true ↔ ∃ G, FoldsGroup i s G) := by
  by_cases hd : isDecf i = true
  · obtain ⟨b, hb, h⟩ := exec_decf_rows i s hd
    rw [h, exists_foldsGroup_iff i s b hd hb]
    refine ⟨_, responseOf (decodeInput s.config.layout b) (folds s (decodeInput s.config.layout b)), rfl, ?_, .rfl⟩
    split <;> rfl
  · have hnone : ¬∃ G, FoldsGroup i s G := fun ⟨_, hdecf, _⟩ => hd hdecf
    rcases exec_cases i s with ⟨r, hr, h⟩ | ⟨_, hdecf, -⟩ | ⟨-, h⟩ | ⟨v, -, h⟩
    · exact ⟨_, r, h, rfl, iff_of_false (by simp [hr]) hnone⟩
    · exact absurd hdecf hd
    · exact ⟨_, okResponse .empty, h, rfl, iff_of_false nofun hnone⟩
    · exact ⟨_, okResponse .empty, h, rfl, iff_of_false nofun hnone⟩

/-- Settles O45: the instruction's one response is the one that marks a fold. -/
theorem foldedFlagMarksAFold : Obligations.FoldedFlagMarksAFold := by
  unfold Obligations.FoldedFlagMarksAFold
  intro i s t r hexec hresp
  obtain ⟨t', r', ht', hr', hiff⟩ := exec_folded i s
  obtain rfl : t = t' := by simpa [hexec] using ht'
  obtain rfl : r = r' := by simpa [hresp] using hr'
  exact hiff

end Sys2Proof.Machine
end

