-- ==== Sys2Proof/Proofs/Memory.lean ====
section
/-! PROOFS of the memory family: a DECF repeated on the same frame leaves the bank and the answer as they were (O35). -/

namespace Sys2Proof.Machine

/-- R59, R152: a fold writes values that come from the decode result alone, so writing them again changes nothing. -/
theorem foldResult_foldResult (t : TRB) (d : DecodeResult) : foldResult (foldResult t d) d = foldResult t d := by
  cases d <;> rfl

/-- R59, R151: the end of a DECF, run twice with the same result. Whether it folds depends on CTRL and on the result, and
the first run keeps CTRL, so both runs fold or neither does. -/
theorem decodeAndFold_twice (s : State) (d : DecodeResult) :
    ∃ t u r, decodeAndFold s d = .next t ∧ decodeAndFold t d = .next u ∧
      u.trb = t.trb ∧ u.ctrl = s.ctrl ∧ t.responses = s.responses ++ [r] ∧ u.responses = t.responses ++ [r] := by
  rcases decodeAndFold_cases s d with ⟨hen, hk, hfirst⟩ | ⟨hno, hfirst⟩
  · exact ⟨_, _, responseOf d true, hfirst, decodeAndFold_on _ d hen hk, foldResult_foldResult s.trb d, rfl, rfl, rfl⟩
  · have hsecond := hno.elim (decodeAndFold_off (s.withResponse (responseOf d false)) d) (decodeAndFold_unknown _ d)
    exact ⟨_, _, responseOf d false, hfirst, hsecond, rfl, rfl, rfl, rfl⟩

/-- R150: a DECF row decodes the same bytes in every state. -/
theorem exec_decf_of_input (i : Instr) (b : List Byte) (s : State) (hd : isDecf i = true)
    (hb : decodeInputOf i = some b) : exec i s = decodeAndFold s (decodeInput s.config.layout b) := by
  obtain ⟨b', hb', h⟩ := exec_decf_rows i s hd
  obtain rfl : b = b' := by simpa [hb] using hb'
  exact h

/-- Settles O35: the first run keeps LAYOUT, so the second decodes the same bytes to the same result. -/
theorem decfIsIdempotentOnTheBank : Obligations.DecfIsIdempotentOnTheBank := by
  unfold Obligations.DecfIsIdempotentOnTheBank
  intro i s hd
  obtain ⟨b, hb, hexec⟩ := exec_decf_rows i s hd
  obtain ⟨t, u, r, ht, hu, hrest⟩ := decodeAndFold_twice s (decodeInput s.config.layout b)
  have hfirst : exec i s = .next t := hexec.trans ht
  have hconfig : t.config = s.config := (exec_keeps_input_config i s t hfirst).2
  have hsecond : exec i t = .next u := by rw [exec_decf_of_input i b t hd hb, hconfig, hu]
  exact ⟨t, u, r, hfirst, hsecond, hrest⟩

end Sys2Proof.Machine
end

/-! PROOFS of the encoding family: the two decoders against the encoder (O1 to O6), DEC and its FRAME row (O26), DECF and
its fold rows (O32), the check of a LAYOUT (O49), the integer front end (O57), the assembler (O59), the frames of
LAYOUT_DEFAULT (O18) and the bytes of responses (O46). -/

namespace Sys2Proof

/-! ### The frame decoder, row by row -/

/-- R122: the row of a decode input whose length is not 16. -/
theorem decodeFrame_wrongLength (b : List Byte) (h : b.length ≠ 16) : decodeFrame b = .frameInvalidLength b := by
  match b with
  | [] | [_] => rfl
  | _ :: _ :: p =>
    have hp : p.length ≠ 14 := by simpa using h
    simp [decodeFrame, hp]

/-- R123: the row of 16 bytes whose header is not 0xAA. -/
theorem decodeFrame_badHeader (h : Byte) (r : Vector Byte 15) (hh : h ≠ Config.header) :
    decodeFrame (h :: r.toList) = .frameBadHeader h r := by
  obtain ⟨k, p, hr⟩ : ∃ k p, r.toList = k :: p := List.exists_cons_of_length_eq_add_one r.length_toList
  have hp : p.length = 14 := by simpa [hr] using r.length_toList
  have htail : tailOfList (k :: p) (by simp [hp]) = r := by
    apply Vector.toList_inj.mp
    rw [tailOfList_toList, hr]
  rw [hr]
  simp [decodeFrame, hp, hh, htail]

/-- Settles O2: the frame decoder's row, for the bytes of each FRAME row. -/
theorem frameRowDecodesFromItsBytes : Obligations.FrameRowDecodesFromItsBytes := by
  unfold Obligations.FrameRowDecodesFromItsBytes
  intro i hwf hformat
  cases i with
  | frameInvalidLength b => exact decodeFrame_wrongLength b (by simpa [Instr.wf] using hwf)
  | frameBadHeader h r => exact decodeFrame_badHeader h r (by simpa [Instr.wf] using hwf)
  | frameK0 p => exact decodeFrame_known 0x00#8 .g0 p rfl
  | frameK1 p => exact decodeFrame_known 0x01#8 .g1 p rfl
  | frameK4 p => exact decodeFrame_known 0x04#8 .g4 p rfl
  | frameK13 p => exact decodeFrame_known 0x0D#8 .g13 p rfl
  | frameUnknown k p => exact decodeFrame_unknown k p (by simpa [Instr.wf, knownKind] using hwf)
  | _ => cases hformat

/-- R78: the row a decode input selects is a well-formed FRAME row with that input as its bytes. -/
theorem decodeFrame_spec (b : List Byte) :
    (decodeFrame b).wf = true ∧ (decodeFrame b).format = .frame ∧ encode (decodeFrame b) = b := by
  rcases decodeFrame_cases b with ⟨hlen, h⟩ | ⟨hd, r, hbad, rfl, h⟩ | ⟨k, p, G, hG, rfl⟩ | ⟨k, p, hk, rfl, h⟩
  · rw [h]
    exact ⟨by simpa [Instr.wf] using hlen, rfl, rfl⟩
  · rw [h]
    exact ⟨by simpa [Instr.wf] using hbad, rfl, rfl⟩
  · rw [decodeFrame_known k G p hG]
    obtain rfl := (groupOf_eq_some k G).mp hG
    cases G <;> exact ⟨rfl, rfl, rfl⟩
  · rw [h]
    exact ⟨by simp [Instr.wf, knownKind, hk], rfl, rfl⟩

/-- Settles O4: a FRAME row with the same bytes decodes from them to itself (O2), so it is the row they select. -/
theorem everyInputSelectsOneFrameRow : Obligations.EveryInputSelectsOneFrameRow := by
  unfold Obligations.EveryInputSelectsOneFrameRow
  intro b
  obtain ⟨hwf, hformat, hbytes⟩ := decodeFrame_spec b
  refine ⟨hwf, hformat, hbytes, ?_⟩
  rintro i hi hif rfl
  exact (frameRowDecodesFromItsBytes i hi hif).symm

/-! ### The commands, as the decoder and the assembler build them -/

/-- R82: the forms of a command. The ENC rows come from a kind byte and the DECF rows from a decode input. -/
inductive IsCommand : Instr → Prop where
  | enc (k : Byte) (v : ValueBlock) : IsCommand (encRow k v)
  | dec (b : List Byte) (h : b.length ≤ 255) : IsCommand (.dec b)
  | decf (b : List Byte) (h : b.length ≤ 255) : IsCommand (decfRow b)
  | rdt : IsCommand .rdt
  | clr : IsCommand .clr
  | wrctl (v : Byte) : IsCommand (.wrctl v)
  | rdctl : IsCommand .rdctl
  | illegal (op : Byte) (h : illegalOpcode op = true) : IsCommand (.illegal op)

/-- R83: the bytes of the ENC row of a kind. -/
theorem encode_encRow (k : Byte) (v : ValueBlock) : encode (encRow k v) = 0x01#8 :: k :: v.toBytes :=
  (encRow_spec k v).2.2

/-- R84: the bytes of the DECF row of an input. -/
theorem encode_decfRow (b : List Byte) (h : b.length ≤ 255) : encode (decfRow b) = 0x03#8 :: inputBytes b :=
  (decfRow_spec b h).2.2

/-- R152: the DECF row of a frame is a command. -/
theorem isCommand_of_decfRow_frame (k : Byte) (p : Payload) {i : Instr} (h : decfRow (0xAA#8 :: k :: p.toList) = i) :
    IsCommand i := h ▸ .decf _ (by simp)

/-- R82: these forms are exactly the well-formed instructions of format CMD. -/
theorem isCommand_iff (i : Instr) : IsCommand i ↔ i.wf = true ∧ i.format = .cmd := by
  constructor
  · intro h
    cases h with
    | enc k v =>
      obtain ⟨hwf, hformat, -⟩ := encRow_spec k v
      exact ⟨hwf, hformat⟩
    | dec b h => exact ⟨by simpa [Instr.wf] using h, rfl⟩
    | decf b h =>
      obtain ⟨hwf, hformat, -⟩ := decfRow_spec b h
      exact ⟨hwf, hformat⟩
    | illegal op h => exact ⟨h, rfl⟩
    | rdt | clr | wrctl | rdctl => exact ⟨rfl, rfl⟩
  · rintro ⟨hwf, hformat⟩
    cases i with
    | encK0 v => exact .enc 0x00#8 v
    | encK1 v => exact .enc 0x01#8 v
    | encK4 v => exact .enc 0x04#8 v
    | encK13 v => exact .enc 0x0D#8 v
    | encUnknown k v =>
      have hk : groupOf k = none := by simpa [Instr.wf, knownKind] using hwf
      have hrow : encRow k v = .encUnknown k v := by simp [encRow, hk]
      exact hrow ▸ .enc k v
    | dec b => exact .dec b (by simpa [Instr.wf] using hwf)
    | decf b =>
      simp only [Instr.wf, Bool.and_eq_true, decide_eq_true_eq, Bool.not_eq_true'] at hwf
      obtain ⟨hlen, hknown⟩ := hwf
      exact decfRow_other b hknown ▸ .decf b hlen
    | decfK0 p => exact isCommand_of_decfRow_frame 0x00#8 p (decfRow_known 0x00#8 .g0 p rfl)
    | decfK1 p => exact isCommand_of_decfRow_frame 0x01#8 p (decfRow_known 0x01#8 .g1 p rfl)
    | decfK4 p => exact isCommand_of_decfRow_frame 0x04#8 p (decfRow_known 0x04#8 .g4 p rfl)
    | decfK13 p => exact isCommand_of_decfRow_frame 0x0D#8 p (decfRow_known 0x0D#8 .g13 p rfl)
    | rdt => exact .rdt
    | clr => exact .clr
    | wrctl v => exact .wrctl v
    | rdctl => exact .rdctl
    | illegal op => exact .illegal op hwf
    | _ => cases hformat

/-! ### The command decoder, opcode by opcode -/

section
variable (rest : List Byte)

/-- R82, R89: ENC reads a kind and a value block. -/
theorem decodeCommand_enc (k : Byte) : decodeCommand (0x01#8 :: k :: rest) =
    match takeValueBlock rest with
    | some (v, rest') => .ok (encRow k v, rest')
    | none => .error (.operandsMissing 0x01#8) := rfl

/-- R84, R89: DEC reads a counted input. -/
theorem decodeCommand_dec : decodeCommand (0x02#8 :: rest) =
    match takeInput rest with
    | some (b, rest') => .ok (.dec b, rest')
    | none => .error (.operandsMissing 0x02#8) := rfl

/-- R84, R89: DECF reads a counted input. -/
theorem decodeCommand_decf : decodeCommand (0x03#8 :: rest) =
    match takeInput rest with
    | some (b, rest') => .ok (decfRow b, rest')
    | none => .error (.operandsMissing 0x03#8) := rfl

theorem decodeCommand_rdt : decodeCommand (0x04#8 :: rest) = .ok (.rdt, rest) := rfl
theorem decodeCommand_clr : decodeCommand (0x05#8 :: rest) = .ok (.clr, rest) := rfl
theorem decodeCommand_wrctl (v : Byte) : decodeCommand (0x06#8 :: v :: rest) = .ok (.wrctl v, rest) := rfl
theorem decodeCommand_rdctl : decodeCommand (0x07#8 :: rest) = .ok (.rdctl, rest) := rfl

end

/-- R82: an opcode byte is one of the seven or illegal. -/
theorem opcode_cases (op : Byte) :
    op = 0x01#8 ∨ op = 0x02#8 ∨ op = 0x03#8 ∨ op = 0x04#8 ∨ op = 0x05#8 ∨ op = 0x06#8 ∨ op = 0x07#8 ∨
      illegalOpcode op = true := by
  rw [illegalOpcode_iff]
  tauto

/-- R81 to R88: a command is read back from its bytes, whatever follows. -/
theorem IsCommand.decodeCommand_encode {i : Instr} (h : IsCommand i) (rest : List Byte) :
    decodeCommand (encode i ++ rest) = .ok (i, rest) := by
  cases h with
  | enc k v =>
    rw [encode_encRow, List.cons_append, List.cons_append, decodeCommand_enc, takeValueBlock_toBytes]
  | dec b h => rw [encode, List.cons_append, decodeCommand_dec, takeInput_inputBytes b rest h]
  | decf b h =>
    rw [encode_decfRow b h, List.cons_append, decodeCommand_decf, takeInput_inputBytes b rest h]
  | rdt => exact decodeCommand_rdt rest
  | clr => exact decodeCommand_clr rest
  | wrctl v => exact decodeCommand_wrctl rest v
  | rdctl => exact decodeCommand_rdctl rest
  | illegal op h => exact decodeCommand_illegal op rest h

/-- Settles O1: a well-formed CMD term has one of the forms of a command. -/
theorem commandDecodesFromItsBytes : Obligations.CommandDecodesFromItsBytes := by
  unfold Obligations.CommandDecodesFromItsBytes
  intro i rest hwf hformat
  exact ((isCommand_iff i).mpr ⟨hwf, hformat⟩).decodeCommand_encode rest

/-- R82: what the decoder reads is one of the commands, and the bytes before the rest are that command's. -/
theorem decodeCommand_eq_ok (bytes rest : List Byte) (i : Instr) (h : decodeCommand bytes = .ok (i, rest)) :
    IsCommand i ∧ encode i ++ rest = bytes := by
  match bytes with
  | [] => cases h
  | op :: bs =>
    rcases opcode_cases op with rfl | rfl | rfl | rfl | rfl | rfl | rfl | hop
    · cases bs with
      | nil => cases h
      | cons k vs =>
        rw [decodeCommand_enc] at h
        split at h <;> cases h
        rename_i v hv
        exact ⟨.enc k v, by rw [encode_encRow, takeValueBlock_eq_some _ _ _ hv]; rfl⟩
    · rw [decodeCommand_dec] at h
      split at h <;> cases h
      rename_i b hb
      obtain ⟨rfl, hlen⟩ := takeInput_eq_some _ _ _ hb
      exact ⟨.dec b hlen, rfl⟩
    · rw [decodeCommand_decf] at h
      split at h <;> cases h
      rename_i b hb
      obtain ⟨rfl, hlen⟩ := takeInput_eq_some _ _ _ hb
      exact ⟨.decf b hlen, by rw [encode_decfRow b hlen]; rfl⟩
    · cases h
      exact ⟨.rdt, rfl⟩
    · cases h
      exact ⟨.clr, rfl⟩
    · cases bs <;> cases h
      exact ⟨.wrctl _, rfl⟩
    · cases h
      exact ⟨.rdctl, rfl⟩
    · rw [decodeCommand_illegal op bs hop] at h
      cases h
      exact ⟨.illegal op hop, rfl⟩

/-- Settles O3: the forms of a command are the well-formed CMD terms. -/
theorem commandBytesAreThoseOfItsInstruction : Obligations.CommandBytesAreThoseOfItsInstruction := by
  unfold Obligations.CommandBytesAreThoseOfItsInstruction
  intro bytes rest i h
  obtain ⟨hcmd, hbytes⟩ := decodeCommand_eq_ok bytes rest i h
  obtain ⟨hwf, hformat⟩ := (isCommand_iff i).mp hcmd
  exact ⟨hwf, hformat, hbytes⟩

/-! ### The sequences the command decoder refuses -/

/-- R86: a value block is missing exactly when there are fewer than 13 bytes. -/
theorem takeValueBlock_eq_none_iff (l : List Byte) : takeValueBlock l = none ↔ l.length < 13 := by
  -- one case for each length below 13, and one for a list of at least 13 bytes
  rcases l with _ | ⟨_, _ | ⟨_, _ | ⟨_, _ | ⟨_, _ | ⟨_, _ | ⟨_, _ | ⟨_, _ | ⟨_, _ | ⟨_, _ | ⟨_, _ | ⟨_, _ | ⟨_, _ | ⟨_, _⟩⟩⟩⟩⟩⟩⟩⟩⟩⟩⟩⟩⟩
  all_goals simp [takeValueBlock]

/-- R84: a counted input is missing exactly when its length byte is, or a byte that it promises. -/
theorem takeInput_eq_none_iff (l : List Byte) :
    takeInput l = none ↔ l.length < 1 ∨ ∃ n, l[0]? = some n ∧ l.length < n.toNat + 1 := by
  cases l with
  | nil => simp [takeInput]
  | cons n r => simp [takeInput]

/-- R89: the decoder refuses a byte sequence, since it does not begin with a whole command. -/
def Refused (bytes : List Byte) : Prop := ∃ e, decodeCommand bytes = .error e

section
variable (rest : List Byte)

theorem refused_nil : Refused [] := ⟨_, rfl⟩

/-- R89: an ENC without its kind or its value block. -/
theorem refused_enc : Refused (0x01#8 :: rest) ↔ rest.length < 14 := by
  cases rest with
  | nil => exact iff_of_true ⟨_, rfl⟩ (by decide)
  | cons k vs =>
    have hlen : (k :: vs).length < 14 ↔ takeValueBlock vs = none := by
      rw [takeValueBlock_eq_none_iff, List.length_cons]
      omega
    rw [hlen, Refused, decodeCommand_enc]
    cases takeValueBlock vs <;> simp

/-- R89: a DEC without its counted input. -/
theorem refused_dec : Refused (0x02#8 :: rest) ↔ takeInput rest = none := by
  rw [Refused, decodeCommand_dec]
  cases takeInput rest <;> simp

/-- R89: a DECF without its counted input. -/
theorem refused_decf : Refused (0x03#8 :: rest) ↔ takeInput rest = none := by
  rw [Refused, decodeCommand_decf]
  cases takeInput rest <;> simp

/-- R89: a WRCTL without its value. -/
theorem refused_wrctl : Refused (0x06#8 :: rest) ↔ rest.length < 1 := by
  cases rest with
  | nil => exact iff_of_true ⟨_, rfl⟩ (by decide)
  | cons v vs => exact iff_of_false nofun (by simp)

/-- R183: an illegal opcode alone is a whole command. -/
theorem not_refused_illegal (op : Byte) (h : illegalOpcode op = true) : ¬Refused (op :: rest) := by
  rw [Refused, decodeCommand_illegal op rest h]
  exact nofun

end

/-- Settles O6: opcode by opcode, what the operands must be for the sequence to be refused. -/
theorem onlyIncompleteCommandsAreRefused : Obligations.OnlyIncompleteCommandsAreRefused := by
  unfold Obligations.OnlyIncompleteCommandsAreRefused
  intro bytes
  change Refused bytes ↔ _
  match bytes with
  | [] => exact iff_of_true refused_nil (.inl rfl)
  | op :: rest =>
    rcases opcode_cases op with rfl | rfl | rfl | rfl | rfl | rfl | rfl | hop
    · have hlen : rest.length < 14 ↔ (0x01#8 :: rest).length < 15 := by rw [List.length_cons]; omega
      simp [refused_enc, hlen]
    · simp [refused_dec, takeInput_eq_none_iff]
    · simp [refused_decf, takeInput_eq_none_iff]
    · simp [Refused, decodeCommand_rdt]
    · simp [Refused, decodeCommand_clr]
    · simp [refused_wrctl]
    · simp [Refused, decodeCommand_rdctl]
    · obtain ⟨h1, h2, h3, -, -, h6, -⟩ := (illegalOpcode_iff op).mp hop
      simp [not_refused_illegal rest op hop, h1, h2, h3, h6]

/-- Settles O5: each command is read by evaluating the decoder on its bytes. -/
theorem writtenWordsDecode : Obligations.WrittenWordsDecode := by
  unfold Obligations.WrittenWordsDecode
  exact ⟨rfl, rfl, rfl, rfl, rfl, rfl, rfl, rfl⟩

namespace Machine

/-! ### DEC and its FRAME row, DECF and its fold rows -/

/-- R120, R181: the FRAME row that an input selects answers the input's decode result (log 1). -/
theorem exec_decodeFrame (b : List Byte) (s : State) :
    exec (decodeFrame b) s = respond s (responseOf (decodeInput s.config.layout b) false) := by
  rcases decodeFrame_cases b with ⟨hlen, h⟩ | ⟨hd, r, hbad, rfl, h⟩ | ⟨k, p, G, hG, rfl⟩ | ⟨k, p, hk, rfl, h⟩
  · rw [h, decodeInput_wrongLength _ b hlen]
    rfl
  · rw [h, decodeInput_badHeader _ hd r.toList (by simp) hbad]
    rfl
  · rw [decodeFrame_known k G p hG, decodeInput_payload, extract, frameOf_one]
    obtain rfl := (groupOf_eq_some k G).mp hG
    cases G <;> rfl
  · rw [h, decodeInput_payload, extract_unknown _ _ (by rwa [frameOf_one]), frameOf_one, payloadOf_frameOf]
    rfl

/-- Settles O26: both answer the input's decode result, and the step runs the DEC that its bytes spell. -/
theorem decRunsTheFrameRowOfItsInput : Obligations.DecRunsTheFrameRowOfItsInput := by
  unfold Obligations.DecRunsTheFrameRowOfItsInput
  intro b s
  have hdec (t : State) : exec (.dec b) t = exec (decodeFrame b) t := (exec_decodeFrame b t).symm
  refine ⟨hdec s, fun es hlen hin => ?_⟩
  have hread : decodeCommand (encode (.dec b) ++ []) = .ok (.dec b, []) := (IsCommand.dec b hlen).decodeCommand_encode []
  rw [List.append_nil] at hread
  rw [step_command s _ es (.dec b) hin hread, hdec]

/-- Settles O32: a fold row and DECF decode the same bytes. -/
theorem foldRowsRefineDecf : Obligations.FoldRowsRefineDecf := by
  unfold Obligations.FoldRowsRefineDecf
  intro p s
  have hsame (i : Instr) (b : List Byte) (hd : isDecf i = true) (hb : decodeInputOf i = some b) :
      exec i s = exec (.decf b) s :=
    (exec_decf_of_input i b s hd hb).trans (exec_decf_of_input (.decf b) b s rfl rfl).symm
  exact ⟨hsame (.decfK0 p) _ rfl rfl, hsame (.decfK1 p) _ rfl rfl, hsame (.decfK4 p) _ rfl rfl,
    hsame (.decfK13 p) _ rfl rfl⟩

end Machine

/-! ### A well-formed LAYOUT -/

theorem Field.bytes_pos (F : Field) : 0 < F.bytes := by cases F <;> decide

/-- R76 (a): the check of one field's place. -/
theorem LayoutTable.inPayload_iff (t : LayoutTable) (F : Field) :
    t.inPayload F = true ↔ 2 ≤ t.off F ∧ t.off F + F.width / 8 - 1 ≤ 15 := by
  change t.inPayload F = true ↔ 2 ≤ t.off F ∧ t.off F + F.bytes - 1 ≤ 15
  have hpos := F.bytes_pos
  simp only [LayoutTable.inPayload, Bool.and_eq_true, decide_eq_true_eq]
  omega

/-- R76 (b): the check that two fields share no byte. If both checks of `apart` fail, the field that begins later begins
at a byte of both. -/
theorem LayoutTable.apart_iff (t : LayoutTable) (F G : Field) :
    t.apart F G = true ↔
      ∀ j, ¬((t.off F ≤ j ∧ j < t.off F + F.width / 8) ∧ (t.off G ≤ j ∧ j < t.off G + G.width / 8)) := by
  change t.apart F G = true ↔
    ∀ j, ¬((t.off F ≤ j ∧ j < t.off F + F.bytes) ∧ (t.off G ≤ j ∧ j < t.off G + G.bytes))
  have hF := F.bytes_pos
  have hG := G.bytes_pos
  simp only [LayoutTable.apart, Bool.or_eq_true, decide_eq_true_eq]
  refine ⟨fun h j => by omega, fun h => ?_⟩
  have hlater := h (max (t.off F) (t.off G))
  omega

/-- R76: the check of a table is the spec's well-formedness. -/
theorem LayoutTable.wf_iff (t : LayoutTable) : t.wf = true ↔ Machine.LayoutWellFormed t := by
  have hfields (p : Field → Bool) : Field.all.all p = true ↔ ∀ F, p F = true := by
    simp [List.all_eq_true, mem_all]
  have hpair (F G : Field) : (F == G || F.owner != G.owner || t.apart F G) = true ↔
      (F ≠ G → F.owner = G.owner → t.apart F G = true) := by
    simp only [Bool.or_eq_true, beq_iff_eq, bne_iff_ne]
    tauto
  simp only [LayoutTable.wf, Bool.and_eq_true, hfields, hpair, t.inPayload_iff, t.apart_iff, Machine.LayoutWellFormed]

namespace Machine

/-- Settles O49: the build is decided by the check of the table, which is well-formedness. -/
theorem buildRefusesIllFormedLayout : Obligations.BuildRefusesIllFormedLayout := by
  unfold Obligations.BuildRefusesIllFormedLayout
  refine ⟨fun t rpmSigned => ?_, layoutDefaultTable.wf_iff.mp layoutDefaultTable_wf⟩
  rw [← t.wf_iff]
  refine ⟨fun h => dif_neg h, fun h => ⟨_, dif_pos h, rfl, rfl, rfl, rfl⟩⟩

/-! ### The integer front end -/

/-- R12, R73: a field's bits are read as two's complement exactly when the field is signed. -/
theorem fieldInt_eq (rpmSigned : Bool) (F : Field) (v : BitVec F.width) :
    fieldInt rpmSigned F v = if fieldSigned rpmSigned F then sext v else zext v := by
  unfold fieldInt fieldSigned
  cases F.meaning <;> simp

theorem sext_eq_toInt {w : Nat} (v : BitVec w) : sext v = v.toInt := by
  simp [sext, BitVec.toInt_eq_toNat_cond]

/-- R85: the pattern of an integer in a field's range means that integer. -/
theorem fieldInt_ofInt (rpmSigned : Bool) (F : Field) (z : Int) (hmin : fieldMin rpmSigned F ≤ z)
    (hmax : z ≤ fieldMax rpmSigned F) : fieldInt rpmSigned F (BitVec.ofInt F.width z) = z := by
  rw [fieldInt_eq]
  unfold fieldMin at hmin
  unfold fieldMax at hmax
  cases hs : fieldSigned rpmSigned F <;> simp only [hs, if_true, Bool.false_eq_true, if_false] at hmin hmax ⊢
  · have hmod : z % 2 ^ F.width = z := Int.emod_eq_of_lt hmin (by omega)
    rw [zext, BitVec.toNat_ofInt]
    push_cast
    rw [hmod, Int.toNat_of_nonneg hmin]
  · rw [sext_eq_toInt]
    exact BitVec.toInt_ofInt_eq_self (by cases F <;> decide) hmin (by omega)

/-- R85: what the front end gives. -/
theorem fieldInt_of_fieldOfInt (rpmSigned : Bool) (F : Field) (z : Int) (v : BitVec F.width)
    (h : fieldOfInt rpmSigned F z = some v) : fieldInt rpmSigned F v = z := by
  unfold fieldOfInt at h
  split at h <;> cases h
  rename_i hrange
  exact fieldInt_ofInt rpmSigned F z hrange.1 hrange.2

/-- R85: what the front end refuses. -/
theorem fieldOfInt_eq_none_iff (rpmSigned : Bool) (F : Field) (z : Int) :
    fieldOfInt rpmSigned F z = none ↔ z < fieldMin rpmSigned F ∨ fieldMax rpmSigned F < z := by
  simp [fieldOfInt, imp_iff_not_or]

/-- R85, R73: the ranges of the eight fields. -/
theorem outside_range_iff (rpmSigned : Bool) (F : Field) (z : Int) :
    z < fieldMin rpmSigned F ∨ fieldMax rpmSigned F < z ↔
      if F = .ctrlTemp ∨ F = .motorTemp then z < -128 ∨ 127 < z
      else if F = .gear then z < 0 ∨ 255 < z
      else if F = .iq ∨ F = .id ∨ (F = .rpm ∧ rpmSigned = true) then z < -32768 ∨ 32767 < z
      else z < 0 ∨ 65535 < z := by
  cases F with
  | rpm => cases rpmSigned <;> exact Iff.rfl
  | gear | iq | id | voltage | ctrlTemp | motorTemp | throttle => exact Iff.rfl

/-- R7, log 15: a written integer has the pattern of one of the two readings of RPM_SIGNED. -/
theorem fieldOfInt_of_spelledValue (F : Field) (z : Int) (v : BitVec F.width) (h : spelledValue F z = some v) :
    ∃ signed, fieldOfInt signed F z = some v := by
  unfold spelledValue at h
  split at h
  · rename_i hfalse
    exact ⟨false, hfalse.trans h⟩
  · exact ⟨true, h⟩

theorem spelledValue_eq_none_iff (F : Field) (z : Int) :
    spelledValue F z = none ↔ ∀ signed, fieldOfInt signed F z = none := by
  rw [Bool.forall_bool, spelledValue]
  cases fieldOfInt false F z <;> simp

/-- Settles O57: the front end's two answers, and the assembler's by the two readings. -/
theorem frontEndNeverWraps : Obligations.FrontEndNeverWraps := by
  unfold Obligations.FrontEndNeverWraps
  intro rpmSigned F z
  refine ⟨fieldInt_of_fieldOfInt rpmSigned F z, ?_, fun v hv => ?_, spelledValue_eq_none_iff F z⟩
  · rw [fieldOfInt_eq_none_iff, outside_range_iff]
  · obtain ⟨signed, h⟩ := fieldOfInt_of_spelledValue F z v hv
    exact ⟨signed, h, fieldInt_of_fieldOfInt signed F z v h⟩

/-! ### What the assembler accepts -/

/-- R90: an input the assembler accepts fits in a length byte. -/
theorem parseInput_length (L : Layout) (ts : List Token) (b : List Byte) (h : parseInput L ts = .ok b) :
    b.length ≤ 255 := by
  unfold parseInput at h
  split at h
  · split at h
    · unfold boundedInput at h
      split at h <;> cases h
      assumption
    · cases h
  · split at h
    · split at h <;> cases h
      simp
    · cases h
  · cases h

/-- R90: a command without operands is the one its word names. -/
theorem noOperands_eq_ok (i j : Instr) (ts : List Token) (h : noOperands i ts = .ok j) : i = j := by
  cases ts <;> cases h
  rfl

/-- R90, R91: the assembler gives commands only. -/
theorem assembleCommand_isCommand (L : Layout) (name : List Char) (ts : List Token) (i : Instr)
    (h : assembleCommand L name ts = .ok i) : IsCommand i := by
  unfold assembleCommand at h
  split at h
  case isTrue =>
    split at h <;> cases h
    exact .enc _ _
  split at h
  case isTrue =>
    split at h <;> cases h
    rename_i hb
    exact .dec _ (parseInput_length L ts _ hb)
  split at h
  case isTrue =>
    split at h <;> cases h
    rename_i hb
    exact .decf _ (parseInput_length L ts _ hb)
  split at h
  case isTrue => exact noOperands_eq_ok _ _ _ h ▸ .rdt
  split at h
  case isTrue => exact noOperands_eq_ok _ _ _ h ▸ .clr
  split at h
  case isTrue => exact noOperands_eq_ok _ _ _ h ▸ .rdctl
  split at h
  case isTrue =>
    split at h
    · split at h <;> cases h
      exact .wrctl _
    · cases h
  split at h
  case isTrue => exact noOperands_eq_ok _ _ _ h ▸ .wrctl _
  split at h
  case isTrue => exact noOperands_eq_ok _ _ _ h ▸ .wrctl _
  cases h

/-- Settles O59: a line's instruction is the command its words spell. -/
theorem assembledCommandsAreWellFormed : Obligations.AssembledCommandsAreWellFormed := by
  unfold Obligations.AssembledCommandsAreWellFormed
  intro L line i h
  unfold assembleLine at h
  split at h
  · cases h
  · split at h <;> cases h
    rename_i hi
    exact (isCommand_iff i).mp (assembleCommand_isCommand L _ _ i hi)
  · cases h

/-! ### The frames of LAYOUT_DEFAULT -/

/-- R101: an ENC row answers the frame of its kind. -/
theorem exec_encRow (k : Byte) (v : ValueBlock) (s : State) :
    exec (encRow k v) s = .next (s.withResponse ⟨.ok, false, .frame (encodeFrame s.config.layout k v)⟩) := by
  unfold encRow
  cases hk : groupOf k with
  | none => rfl
  | some G =>
    obtain rfl := (groupOf_eq_some k G).mp hk
    cases G <;> rfl

/-- R74, R103: gear, rpm, iq and id stand one after the other from byte 2 on. -/
theorem encodeFrame_default_kind0 (v : ValueBlock) : encodeFrame layoutDefault 0x00#8 v =
    #v[0xAA#8, 0x00#8, v.gear, hiByte v.rpm, loByte v.rpm, hiByte v.iq, loByte v.iq, hiByte v.id, loByte v.id,
       0, 0, 0, 0, 0, 0, 0] := rfl

/-- R74, R104: voltage stands at bytes 2 and 3. -/
theorem encodeFrame_default_kind1 (v : ValueBlock) : encodeFrame layoutDefault 0x01#8 v =
    #v[0xAA#8, 0x01#8, hiByte v.voltage, loByte v.voltage, 0, 0, 0, 0, 0, 0, 0, 0, 0, 0, 0, 0] := rfl

/-- R74, R105: ctrl_temp stands at byte 2. -/
theorem encodeFrame_default_kind4 (v : ValueBlock) : encodeFrame layoutDefault 0x04#8 v =
    #v[0xAA#8, 0x04#8, v.ctrlTemp, 0, 0, 0, 0, 0, 0, 0, 0, 0, 0, 0, 0, 0] := rfl

/-- R74, R106: motor_temp stands at byte 2 and throttle after it. -/
theorem encodeFrame_default_kind13 (v : ValueBlock) : encodeFrame layoutDefault 0x0D#8 v =
    #v[0xAA#8, 0x0D#8, v.motorTemp, hiByte v.throttle, loByte v.throttle, 0, 0, 0, 0, 0, 0, 0, 0, 0, 0, 0] := rfl

/-- Settles O18: each known ENC row answers its kind's frame, and LAYOUT_DEFAULT says where that frame's bytes are. -/
theorem encFramesUnderDefaultLayout : Obligations.EncFramesUnderDefaultLayout := by
  unfold Obligations.EncFramesUnderDefaultLayout
  intro v s hlayout
  have henc (k : Byte) : exec (encRow k v) s =
      .next (s.withResponse ⟨.ok, false, .frame (encodeFrame layoutDefault k v)⟩) := by
    rw [exec_encRow, hlayout]
  rw [← encodeFrame_default_kind0, ← encodeFrame_default_kind1, ← encodeFrame_default_kind4,
    ← encodeFrame_default_kind13]
  exact ⟨henc 0x00#8, henc 0x01#8, henc 0x04#8, henc 0x0D#8⟩

/-! ### The response of an instruction, and its bytes -/

/-- R35: `Answers s i r` says that `r` is a response of `i` in `s`, one constructor per shape of data. -/
inductive Answers (s : State) : Instr → Response → Prop where
  | enc (i : Instr) (f : Frame) (h : isEnc i = true) : Answers s i (okResponse (.frame f))
  | decode (i : Instr) (b : List Byte) (folded : Bool) (h : decodeInputOf i = some b) :
      Answers s i (responseOf (decodeInput s.config.layout b) folded)
  | rdt : Answers s .rdt (okResponse (.telemetry (validMask s.trb) (snapshot s.trb)))
  | clr : Answers s .clr (okResponse .empty)
  | wrctl (v : Byte) : Answers s (.wrctl v) (okResponse .empty)
  | rdctl : Answers s .rdctl (okResponse (.ctrl s.ctrl.toByte))
  | illegal (op : Byte) : Answers s (.illegal op) (errorResponse .errIllegalCmd)

/-- R35: the one response of a well-formed instruction has its row's shape. -/
theorem exec_answers (i : Instr) (s : State) (hwf : i.wf = true) :
    ∃ t r, exec i s = .next t ∧ t.responses = s.responses ++ [r] ∧ Answers s i r := by
  cases i with
  | encK0 | encK1 | encK4 | encK13 | encUnknown => exact ⟨_, _, rfl, rfl, .enc _ _ rfl⟩
  | rdt => exact ⟨_, _, rfl, rfl, .rdt⟩
  | clr => exact ⟨_, _, rfl, rfl, .clr⟩
  | wrctl v => exact ⟨_, _, rfl, rfl, .wrctl v⟩
  | rdctl => exact ⟨_, _, rfl, rfl, .rdctl⟩
  | illegal op => exact ⟨_, _, rfl, rfl, .illegal op⟩
  | _ =>
    obtain ⟨t, folded, ht, hr⟩ := exec_decode_rows _ s _ hwf rfl
    exact ⟨t, _, ht, hr, .decode _ _ folded rfl⟩

/-- R35: so a response returned by a well-formed instruction is an answer of it. -/
theorem answers_of_exec {i : Instr} {s t : State} {r : Response} (hwf : i.wf = true) (hexec : exec i s = .next t)
    (hresp : t.responses = s.responses ++ [r]) : Answers s i r := by
  obtain ⟨t', r', ht', hr', h⟩ := exec_answers i s hwf
  obtain rfl : t = t' := by simpa [hexec] using ht'
  obtain rfl : r = r' := by simpa [hresp] using hr'
  exact h

/-- R87: status and flags, then the data. -/
theorem Response.bytes_length (r : Response) : r.bytes.length = r.data.bytes.length + 2 := rfl

/-- R81, R120: an ENC row has no decode input. -/
theorem decodeInputOf_of_isEnc (i : Instr) (h : isEnc i = true) : decodeInputOf i = none := by
  cases i with
  | encK0 | encK1 | encK4 | encK13 | encUnknown => rfl
  | _ => cases h

section
variable {s : State} {i : Instr} {r : Response} (ha : Answers s i r)
include ha

/-- R35: ENC answers a frame. -/
theorem Answers.data_of_isEnc (h : isEnc i = true) : ∃ f, r.data = .frame f := by
  cases ha with
  | enc _ f => exact ⟨f, rfl⟩
  | decode _ b _ hb =>
    rw [decodeInputOf_of_isEnc i h] at hb
    cases hb
  | _ => cases h

/-- R120, R150: a row with a decode input answers that input's decode result. -/
theorem Answers.of_decodeInput {b : List Byte} (h : decodeInputOf i = some b) :
    ∃ folded, r = responseOf (decodeInput s.config.layout b) folded := by
  cases ha with
  | enc _ f he =>
    rw [decodeInputOf_of_isEnc i he] at h
    cases h
  | decode _ b' folded hb =>
    obtain rfl : b = b' := by simpa [h] using hb
    exact ⟨folded, rfl⟩
  | _ => cases h

/-- R181, R183: a status other than OK and ERR_ILLEGAL_CMD is that of a decode result. -/
theorem Answers.decode_of_status (hok : r.status ≠ .ok) (hill : r.status ≠ .errIllegalCmd) :
    ∃ b folded, decodeInputOf i = some b ∧ r = responseOf (decodeInput s.config.layout b) folded := by
  cases ha with
  | decode _ b folded hb => exact ⟨b, folded, hb, rfl⟩
  | illegal => exact absurd rfl hill
  | _ => exact absurd rfl hok

end

/-! What each register command answers: its rows are no ENC rows and have no decode input. -/

theorem Answers.eq_of_rdt {s : State} {r : Response} (ha : Answers s .rdt r) :
    r = okResponse (.telemetry (validMask s.trb) (snapshot s.trb)) := by
  cases ha with
  | enc _ _ h | decode _ _ _ h => cases h
  | rdt => rfl

theorem Answers.eq_of_rdctl {s : State} {r : Response} (ha : Answers s .rdctl r) :
    r = okResponse (.ctrl s.ctrl.toByte) := by
  cases ha with
  | enc _ _ h | decode _ _ _ h => cases h
  | rdctl => rfl

theorem Answers.eq_of_clr {s : State} {r : Response} (ha : Answers s .clr r) : r = okResponse .empty := by
  cases ha with
  | enc _ _ h | decode _ _ _ h => cases h
  | clr => rfl

theorem Answers.eq_of_wrctl {s : State} {v : Byte} {r : Response} (ha : Answers s (.wrctl v) r) :
    r = okResponse .empty := by
  cases ha with
  | enc _ _ h | decode _ _ _ h => cases h
  | wrctl => rfl

/-- R121, R130: a result Unknown comes from a frame of that kind and payload. -/
theorem decodeInput_eq_unknown (L : Layout) (b : List Byte) (k : Byte) (p : Payload)
    (h : decodeInput L b = .unknown k p) : b = 0xAA#8 :: k :: p.toList := by
  rcases decodeFrame_cases b with ⟨hlen, -⟩ | ⟨hd, r, hbad, rfl, -⟩ | ⟨k', p', G, hG, rfl⟩ | ⟨k', p', hk, rfl, -⟩
  · rw [decodeInput_wrongLength L b hlen] at h
    cases h
  · rw [decodeInput_badHeader L hd r.toList (by simp) hbad] at h
    cases h
  · have hgroup := resultGroup_decodeInput L (0xAA#8 :: k' :: p'.toList)
    rw [h, knownGroup_payload, hG] at hgroup
    cases hgroup
  · rw [decodeInput_payload, extract_unknown _ _ (by rwa [frameOf_one]), frameOf_one, payloadOf_frameOf] at h
    cases h
    rfl

/-- R125 to R128: the result of an input of group G. -/
theorem decodeInput_known (L : Layout) (b : List Byte) (G : Group) (h : knownGroup b = some G) : ∃ f,
    decodeInput L b = match G with
      | .g0 => extract0 L f
      | .g1 => extract1 L f
      | .g4 => extract4 L f
      | .g13 => extract13 L f := by
  obtain ⟨p, rfl⟩ := eq_frame_of_knownGroup b G h
  refine ⟨frameOf Config.header G.kind p, ?_⟩
  rw [decodeInput_payload, extract, frameOf_one]
  cases G <;> rfl

/-- R155: the bits of the valid mask. -/
theorem validMask_bits (t : TRB) :
    (validMask t).getLsbD 0 = t.valid0 ∧ (validMask t).getLsbD 1 = t.valid1 ∧ (validMask t).getLsbD 2 = t.valid4 ∧
      (validMask t).getLsbD 3 = t.valid13 ∧ (validMask t).extractLsb' 4 4 = 0 := by
  unfold validMask
  cases t.valid0 <;> cases t.valid1 <;> cases t.valid4 <;> cases t.valid13 <;> decide

/-- R30: CTRL as a byte. -/
theorem Ctrl.toByte_eq (c : Ctrl) : c.toByte = if c.foldEn then 0x01#8 else 0x00#8 := flagsByte_eq c.foldEn

/-- R181: the results with status OK_UNKNOWN_KIND. -/
theorem eq_unknown_of_statusOf (d : DecodeResult) (h : statusOf d = .okUnknownKind) : ∃ k p, d = .unknown k p := by
  cases d with
  | unknown k p => exact ⟨k, p, rfl⟩
  | _ => cases h

/-! ### The bytes of each case (R87) -/

/-- The bytes of an answer of ENC. -/
theorem bytes_of_frame (r : Response) (f : Frame) (h : r.data = .frame f) :
    r.bytes.length = 18 ∧ r.bytes.drop 2 = f.toList.map some := by
  rw [Response.bytes_length, Response.bytes_drop_two, h]
  exact ⟨by simp [RespData.bytes], rfl⟩

/-- The bytes of a decode result of a known kind. -/
theorem bytes_of_knownGroup (L : Layout) (b : List Byte) (G : Group) (folded : Bool) (r : Response)
    (hG : knownGroup b = some G) (hr : r = responseOf (decodeInput L b) folded) :
    r.bytes[2]? = some (some G.kind) ∧
    (G = .g0 → r.bytes.length = 10 ∧ ∃ gear rpm iq id, r.data = .known0 gear rpm iq id ∧
      r.bytes.drop 2 = [0x00#8, gear, rpm.extractLsb' 8 8, rpm.extractLsb' 0 8, iq.extractLsb' 8 8,
        iq.extractLsb' 0 8, id.extractLsb' 8 8, id.extractLsb' 0 8].map some) ∧
    (G = .g1 → r.bytes.length = 5 ∧ ∃ voltage, r.data = .known1 voltage ∧
      r.bytes.drop 2 = [0x01#8, voltage.extractLsb' 8 8, voltage.extractLsb' 0 8].map some) ∧
    (G = .g4 → r.bytes.length = 4 ∧ ∃ ctrlTemp, r.data = .known4 ctrlTemp ∧
      r.bytes.drop 2 = [0x04#8, ctrlTemp].map some) ∧
    (G = .g13 → r.bytes.length = 6 ∧ ∃ motorTemp throttle, r.data = .known13 motorTemp throttle ∧
      r.bytes.drop 2 = [0x0D#8, motorTemp, throttle.extractLsb' 8 8, throttle.extractLsb' 0 8].map some) := by
  obtain ⟨f, hf⟩ := decodeInput_known L b G hG
  rw [hf] at hr
  subst hr
  cases G with
  | g0 => exact ⟨rfl, fun _ => ⟨rfl, _, _, _, _, rfl, rfl⟩, nofun, nofun, nofun⟩
  | g1 => exact ⟨rfl, nofun, fun _ => ⟨rfl, _, rfl, rfl⟩, nofun, nofun⟩
  | g4 => exact ⟨rfl, nofun, nofun, fun _ => ⟨rfl, _, rfl, rfl⟩, nofun⟩
  | g13 => exact ⟨rfl, nofun, nofun, nofun, fun _ => ⟨rfl, _, _, rfl, rfl⟩⟩

/-- The bytes of a decode result of an unknown kind. -/
theorem bytes_of_unknown (L : Layout) (b : List Byte) (folded : Bool) (r : Response)
    (hr : r = responseOf (decodeInput L b) folded) (h : r.status = .okUnknownKind) :
    r.bytes.length = 17 ∧ ∃ (k : Byte) (p : Payload), b = 0xAA#8 :: k :: p.toList ∧ r.data = .unknown k p ∧
      r.bytes.drop 2 = (k :: p.toList).map some := by
  subst hr
  obtain ⟨k, p, hd⟩ := eq_unknown_of_statusOf _ h
  rw [hd]
  refine ⟨?_, k, p, decodeInput_eq_unknown L b k p hd, rfl, rfl⟩
  simp [Response.bytes_length, responseOf, dataOf, RespData.bytes, byte1]

/-- The bytes of an answer of RDT. -/
theorem bytes_of_telemetry (mask : Byte) (v : Snapshot) : (okResponse (.telemetry mask v)).bytes =
    [some Status.ok.code, some (flagsByte false), some mask, v.gear, v.rpm.map hiByte, v.rpm.map loByte,
      v.iq.map hiByte, v.iq.map loByte, v.id.map hiByte, v.id.map loByte, v.voltage.map hiByte, v.voltage.map loByte,
      v.ctrlTemp, v.motorTemp, v.throttle.map hiByte, v.throttle.map loByte] := by
  simp [Response.bytes, okResponse, RespData.bytes, byte1, Snapshot.bytes_eq]

/-- The bytes of an invalid group in an answer of RDT have no value. -/
theorem bytes_of_invalid_groups (t : TRB) (r : Response) (hr : r = okResponse (.telemetry (validMask t) (snapshot t))) :
    (t.valid0 = false → (r.bytes.drop 3).take 7 = List.replicate 7 none) ∧
    (t.valid1 = false → (r.bytes.drop 10).take 2 = List.replicate 2 none) ∧
    (t.valid4 = false → r.bytes[12]? = some none) ∧
    (t.valid13 = false → r.bytes.drop 13 = List.replicate 3 none) := by
  rw [hr, bytes_of_telemetry]
  refine ⟨?_, ?_, ?_, ?_⟩ <;> intro h <;> simp [snapshot, bankValue, Field.owner, h]

/-- R87: a response without data is its status and its flags. -/
theorem bytes_length_of_empty (r : Response) (h : r.data = .empty) : r.bytes.length = 2 := by
  rw [Response.bytes_length, h]
  rfl

/-- Settles O46: each clause is about the shape its rows answer with (`Answers`), and that shape has its bytes. -/
theorem responseLengths : Obligations.ResponseLengths := by
  unfold Obligations.ResponseLengths
  intro i s t r hwf hexec hresp
  have ha : Answers s i r := answers_of_exec hwf hexec hresp
  refine ⟨rfl, ?_, fun henc => ?_, fun b G hb hG => ?_, fun hunknown => ?_, ?_, ?_, fun hempty => ?_⟩
  · rw [← flagsByte_eq]
    rfl
  · obtain ⟨f, hf⟩ := ha.data_of_isEnc henc
    obtain ⟨hlen, hdata⟩ := bytes_of_frame r f hf
    exact ⟨hlen, f, hf, hdata⟩
  · obtain ⟨folded, hr⟩ := ha.of_decodeInput hb
    exact bytes_of_knownGroup s.config.layout b G folded r hG hr
  · obtain ⟨b, folded, hb, hr⟩ := ha.decode_of_status (by simp [hunknown]) (by simp [hunknown])
    obtain ⟨hlen, k, p, rfl, hdata⟩ := bytes_of_unknown s.config.layout b folded r hr hunknown
    exact ⟨hlen, k, p, hb, hdata⟩
  · rintro rfl
    obtain ⟨hb0, hb1, hb2, hb3, hhigh⟩ := validMask_bits s.trb
    have hinvalid := bytes_of_invalid_groups s.trb r ha.eq_of_rdt
    have hbytes := bytes_of_telemetry (validMask s.trb) (snapshot s.trb)
    rw [← ha.eq_of_rdt] at hbytes
    refine ⟨by rw [hbytes]; rfl, validMask s.trb, snapshot s.trb, by rw [ha.eq_of_rdt]; rfl, by rw [hbytes]; rfl, ?_⟩
    exact ⟨hb0, hb1, hb2, hb3, hhigh, hinvalid⟩
  · rintro rfl
    rw [ha.eq_of_rdctl, ← Ctrl.toByte_eq]
    exact ⟨rfl, rfl⟩
  · apply bytes_length_of_empty
    rcases hempty with rfl | ⟨v, rfl⟩ | herror
    · rw [ha.eq_of_clr]
      rfl
    · rw [ha.eq_of_wrctl]
      rfl
    · exact (errorsChangeNoState i s t r hexec hresp herror).1

end Machine
end Sys2Proof

/-! PROOFS of the ENC family: from command bytes to frame bytes (O11 to O15), the operands and the state a frame depends
on (O16, O17). -/

namespace Sys2Proof

/-- R86: 13 operand bytes are one whole value block. -/
theorem exists_takeValueBlock_eq_some (vs : List Byte) (h : vs.length = 13) :
    ∃ v, takeValueBlock vs = some (v, []) := by
  cases hv : takeValueBlock vs with
  | none =>
    have hlt := (takeValueBlock_eq_none_iff vs).mp hv
    omega
  | some p =>
    obtain ⟨v, rest⟩ := p
    obtain rfl : rest = [] := by
      simpa [h, ValueBlock.toBytes] using congrArg List.length (takeValueBlock_eq_some _ _ _ hv)
    exact ⟨v, rfl⟩

/-- R83: the ENC row of an unknown kind. -/
theorem encRow_unknown (k : Byte) (v : ValueBlock) (h : groupOf k = none) : encRow k v = .encUnknown k v := by
  rw [encRow, h]

namespace Machine

/-! ### The bytes of an ENC frame, for every LAYOUT -/

section
variable (L : Layout) (k : Byte) (v : ValueBlock)

/-- R102: a payload byte that no field of the kind occupies is zero. -/
theorem encodeFrame_unoccupied (j : Nat) (hj : j < 16) (hpayload : 2 ≤ j) (hfree : ¬Occupied L k j) :
    (encodeFrame L k v)[j] = 0x00#8 := by
  rw [encodeFrame_outside L k v j hj fun F hF hbyte => hfree ⟨F, hF, hbyte⟩, if_neg (by omega), if_neg (by omega)]

/-- R108: the fields written are those the kind owns, each from its own operand. -/
theorem encodeFrame_congr (v' : ValueBlock)
    (h : ∀ F : Field, F.owner.kind = k → getField v F = getField v' F) : encodeFrame L k v = encodeFrame L k v' :=
  List.foldl_ext _ _ _ fun f F hF => writeField_congr L v v' f F (h F ((mem_fieldsOf k F).mp hF))

end

/-- Settles O11: each field of kind 0 stands in the frame as it is read back from it. -/
theorem encKind0WritesItsFields : Obligations.EncKind0WritesItsFields := by
  unfold Obligations.EncKind0WritesItsFields
  intro g r1 r0 q1 q0 d1 d0 _ _ _ _ _ _ s
  refine ⟨_, _, rfl, exec_encRow 0x00#8 _ s, encodeFrame_zero .., encodeFrame_one .., ?gear, and_assoc.mp ⟨?rpm,
    and_assoc.mp ⟨?iq, and_assoc.mp ⟨?id, encodeFrame_unoccupied _ _ _⟩⟩⟩⟩
  case gear => exact getElem?_of_memRead1 _ _ .gear rfl g (readField_encodeFrame_gear ..)
  case rpm => exact getElem?_of_memRead2 _ _ .rpm rfl r1 r0 (readField_encodeFrame_rpm ..)
  case iq => exact getElem?_of_memRead2 _ _ .iq rfl q1 q0 (readField_encodeFrame_iq ..)
  case id => exact getElem?_of_memRead2 _ _ .id rfl d1 d0 (readField_encodeFrame_id ..)

/-- Settles O12: voltage stands in the frame as it is read back from it. -/
theorem encKind1WritesItsField : Obligations.EncKind1WritesItsField := by
  unfold Obligations.EncKind1WritesItsField
  intro _ _ _ _ _ _ _ v1 v0 _ _ _ _ s
  refine ⟨_, _, rfl, exec_encRow 0x01#8 _ s, encodeFrame_zero .., encodeFrame_one .., and_assoc.mp ⟨?voltage,
    encodeFrame_unoccupied _ _ _⟩⟩
  case voltage => exact getElem?_of_memRead2 _ _ .voltage rfl v1 v0 (readField_encodeFrame_voltage ..)

/-- Settles O13: ctrl_temp stands in the frame as it is read back from it. -/
theorem encKind4WritesItsField : Obligations.EncKind4WritesItsField := by
  unfold Obligations.EncKind4WritesItsField
  intro _ _ _ _ _ _ _ _ _ c _ _ _ s
  refine ⟨_, _, rfl, exec_encRow 0x04#8 _ s, encodeFrame_zero .., encodeFrame_one .., ?ctrlTemp,
    encodeFrame_unoccupied _ _ _⟩
  case ctrlTemp => exact getElem?_of_memRead1 _ _ .ctrlTemp rfl c (readField_encodeFrame_ctrlTemp ..)

/-- Settles O14: motor_temp and throttle stand in the frame as they are read back from it. -/
theorem encKind13WritesItsFields : Obligations.EncKind13WritesItsFields := by
  unfold Obligations.EncKind13WritesItsFields
  intro _ _ _ _ _ _ _ _ _ _ m t1 t0 s
  refine ⟨_, _, rfl, exec_encRow 0x0D#8 _ s, encodeFrame_zero .., encodeFrame_one .., ?motorTemp,
    and_assoc.mp ⟨?throttle, encodeFrame_unoccupied _ _ _⟩⟩
  case motorTemp => exact getElem?_of_memRead1 _ _ .motorTemp rfl m (readField_encodeFrame_motorTemp ..)
  case throttle => exact getElem?_of_memRead2 _ _ .throttle rfl t1 t0 (readField_encodeFrame_throttle ..)

/-- Settles O15: the kind selects row ENC.UNKNOWN and owns no field. -/
theorem encUnknownKindZeroFills : Obligations.EncUnknownKindZeroFills := by
  unfold Obligations.EncUnknownKindZeroFills
  intro k vs s hk hlen
  have hgroup : groupOf k = none :=
    (groupOf_eq_none k).mpr fun G hG => hk (hG ▸ by cases G <;> decide)
  obtain ⟨v, hv⟩ := exists_takeValueBlock_eq_some vs hlen
  have hrow : encRow k v = .encUnknown k v := encRow_unknown k v hgroup
  refine ⟨v, encodeFrame s.config.layout k v, ?_, hrow ▸ exec_encRow k v s, encodeFrame_unknown _ k v hgroup⟩
  rw [decodeCommand_enc, hv, ← hrow]

/-- Settles O16: two blocks that agree on the owned fields make the same writes into the same blank frame. -/
theorem encodeReadsOnlyOwnedFields : Obligations.EncodeReadsOnlyOwnedFields := encodeFrame_congr

/-- R100, R109: an ENC row answers Encode of its kind and value block. -/
theorem exec_of_isEnc (i : Instr) (h : isEnc i = true) : ∃ k v, ∀ s : State,
    exec i s = .next (s.withResponse ⟨.ok, false, .frame (encodeFrame s.config.layout k v)⟩) := by
  cases i with
  | encK0 v => exact ⟨0x00#8, v, exec_encRow 0x00#8 v⟩
  | encK1 v => exact ⟨0x01#8, v, exec_encRow 0x01#8 v⟩
  | encK4 v => exact ⟨0x04#8, v, exec_encRow 0x04#8 v⟩
  | encK13 v => exact ⟨0x0D#8, v, exec_encRow 0x0D#8 v⟩
  | encUnknown k v => exact ⟨k, v, fun _ => rfl⟩
  | _ => cases h

/-- Settles O17: the function is Encode of the row's kind and value block. -/
theorem encNeedsNoState : Obligations.EncNeedsNoState := by
  unfold Obligations.EncNeedsNoState
  intro i h
  obtain ⟨k, v, hexec⟩ := exec_of_isEnc i h
  exact ⟨fun L => encodeFrame L k v, hexec⟩

end Machine
end Sys2Proof

/-! PROOFS of the decode family: what Decode refuses (O19, O20), what it extracts (O21 to O25), what it does not read (O27),
the round trips with Encode (O28, O30) and the physical values (O58). -/

namespace Sys2Proof.Machine

/-! ### DEC and the FRAME row of its input -/

/-- R78, R120: DEC and the FRAME row that its input selects answer the input's decode result. -/
theorem exec_row_and_dec (s : State) {b : List Byte} {i : Instr} {d : DecodeResult} (hrow : decodeFrame b = i)
    (hd : decodeInput s.config.layout b = d) :
    exec i s = .next (s.withResponse (responseOf d false)) ∧
      exec (.dec b) s = .next (s.withResponse (responseOf d false)) := by
  subst hrow hd
  exact ⟨exec_decodeFrame b s, rfl⟩

/-- Settles O19: the length alone selects row FRAME.INVALID_LENGTH and its result. -/
theorem decodeRejectsWrongLength : Obligations.DecodeRejectsWrongLength := by
  unfold Obligations.DecodeRejectsWrongLength
  intro b s hlen
  have hd := decodeInput_wrongLength s.config.layout b hlen
  exact ⟨hd, (exec_row_and_dec s (decodeFrame_wrongLength b hlen) hd).symm⟩

/-- Settles O20: the length is right, so the header selects row FRAME.BAD_HEADER and its result. -/
theorem decodeRejectsBadHeader : Obligations.DecodeRejectsBadHeader := by
  unfold Obligations.DecodeRejectsBadHeader
  intro h rest s hbad
  have hd := decodeInput_badHeader s.config.layout h rest.toList (by simp) hbad
  exact ⟨hd, (exec_row_and_dec s (decodeFrame_badHeader h rest hbad) hd).symm⟩

/-! ### The result of a known kind, as a function of the field values -/

/-- R131: the result Known_k of a group, with the fields of a value block that the group owns. -/
def knownResult (v : ValueBlock) : Group → DecodeResult
  | .g0 => .known0 v.gear v.rpm v.iq v.id
  | .g1 => .known1 v.voltage
  | .g4 => .known4 v.ctrlTemp
  | .g13 => .known13 v.motorTemp v.throttle

/-- R77: all eight fields as they are read from a frame. -/
def readBlock (L : Layout) (f : Frame) : ValueBlock where
  gear := readField L f .gear
  rpm := readField L f .rpm
  iq := readField L f .iq
  id := readField L f .id
  voltage := readField L f .voltage
  ctrlTemp := readField L f .ctrlTemp
  motorTemp := readField L f .motorTemp
  throttle := readField L f .throttle

@[simp] theorem getField_readBlock (L : Layout) (f : Frame) (F : Field) :
    getField (readBlock L f) F = readField L f F := by cases F <;> rfl

@[simp] theorem resultGroup_knownResult (v : ValueBlock) (G : Group) : resultGroup (knownResult v G) = some G := by
  cases G <;> rfl

@[simp] theorem statusOf_knownResult (v : ValueBlock) (G : Group) : statusOf (knownResult v G) = .ok := by
  cases G <;> rfl

/-- R131: a result Known_k holds the fields that kind k owns, and no others. -/
theorem knownResult_eq_iff (v w : ValueBlock) (G : Group) :
    knownResult v G = knownResult w G ↔ ∀ F : Field, F.owner = G → getField v F = getField w F := by
  cases G with
  | g0 =>
    rw [knownResult, knownResult, DecodeResult.known0.injEq]
    exact ⟨fun ⟨hgear, hrpm, hiq, hid⟩ => by rintro ⟨⟩ ⟨⟩ <;> assumption,
      fun h => ⟨h .gear rfl, h .rpm rfl, h .iq rfl, h .id rfl⟩⟩
  | g1 =>
    rw [knownResult, knownResult, DecodeResult.known1.injEq]
    exact ⟨fun hvoltage => by rintro ⟨⟩ ⟨⟩; exact hvoltage, fun h => h .voltage rfl⟩
  | g4 =>
    rw [knownResult, knownResult, DecodeResult.known4.injEq]
    exact ⟨fun hctrlTemp => by rintro ⟨⟩ ⟨⟩; exact hctrlTemp, fun h => h .ctrlTemp rfl⟩
  | g13 =>
    rw [knownResult, knownResult, DecodeResult.known13.injEq]
    exact ⟨fun ⟨hmotorTemp, hthrottle⟩ => by rintro ⟨⟩ ⟨⟩ <;> assumption,
      fun h => ⟨h .motorTemp rfl, h .throttle rfl⟩⟩

/-- R124 to R128: Decode of a frame of a known kind reads the fields of that kind. -/
theorem decodeInput_of_kind (L : Layout) (f : Frame) (G : Group) (hheader : f[0] = Config.header)
    (hkind : f[1] = G.kind) : decodeInput L f.toList = knownResult (readBlock L f) G := by
  rw [decodeInput_frame L f hheader, extract, hkind, groupOf_kind]
  cases G <;> rfl

/-- R130: Decode of a frame of an unknown kind keeps its kind and its payload. -/
theorem decodeInput_of_unknown_kind (L : Layout) (f : Frame) (hheader : f[0] = Config.header)
    (hkind : groupOf f[1] = none) : decodeInput L f.toList = .unknown f[1] (payloadOf f) := by
  rw [decodeInput_frame L f hheader, extract_unknown L f hkind]

/-! ### The bytes of the extracted fields -/

section
variable (L : Layout) (k : Byte) (p : Payload) (F : Field)

/-- R77: the byte of a one-byte field, in the bytes of the frame. -/
theorem frame_getElem?_memRead1 (h : F.bytes = 1) : (0xAA#8 :: k :: p.toList)[L.off F]? =
    some (memRead1 (frameOf Config.header k p) (L.off F) (off_lt L F h)) := by
  rw [← frameOf_toList, Vector.getElem?_toList]
  exact getElem?_of_memRead1 L _ F h _ rfl

/-- R77, R54: the bytes of a two-byte field, in the bytes of the frame, the high byte first. -/
theorem frame_getElem?_memRead2 (h : F.bytes = 2) :
    (0xAA#8 :: k :: p.toList)[L.off F]? =
      some (hiByte (memRead2 (frameOf Config.header k p) (L.off F) (off_succ_lt L F h))) ∧
    (0xAA#8 :: k :: p.toList)[L.off F + 1]? =
      some (loByte (memRead2 (frameOf Config.header k p) (L.off F) (off_succ_lt L F h))) := by
  rw [← frameOf_toList, Vector.getElem?_toList, Vector.getElem?_toList]
  exact getElem?_of_memRead2 L _ F h _ _ (joinBytes_hi_lo _).symm

end

/-- R125 to R128: Decode of the bytes of a frame of a known kind. -/
theorem decodeInput_known_payload (L : Layout) (G : Group) (p : Payload) :
    decodeInput L (0xAA#8 :: G.kind :: p.toList) = knownResult (readBlock L (frameOf Config.header G.kind p)) G := by
  rw [← frameOf_toList]
  exact decodeInput_of_kind L _ G (frameOf_zero ..) (frameOf_one ..)

/-- Settles O21: kind 0 selects FRAME.K0, and each of its four fields is read at its own offset. -/
theorem decodeKind0ExtractsItsFields : Obligations.DecodeKind0ExtractsItsFields := by
  unfold Obligations.DecodeKind0ExtractsItsFields
  rintro p s _ rfl
  have hrow := decodeFrame_known 0x00#8 .g0 p rfl
  obtain ⟨hframe, hdec⟩ := exec_row_and_dec s hrow (decodeInput_known_payload _ .g0 p)
  refine ⟨_, _, _, _, hframe, hdec, ?gear, and_assoc.mp ⟨?rpm, and_assoc.mp ⟨?iq, ?id⟩⟩⟩
  case gear => exact frame_getElem?_memRead1 _ _ p .gear rfl
  case rpm => exact frame_getElem?_memRead2 _ _ p .rpm rfl
  case iq => exact frame_getElem?_memRead2 _ _ p .iq rfl
  case id => exact frame_getElem?_memRead2 _ _ p .id rfl

/-- Settles O22: kind 1 selects FRAME.K1, and voltage is read at its offset. -/
theorem decodeKind1ExtractsItsField : Obligations.DecodeKind1ExtractsItsField := by
  unfold Obligations.DecodeKind1ExtractsItsField
  rintro p s _ rfl
  have hrow := decodeFrame_known 0x01#8 .g1 p rfl
  obtain ⟨hframe, hdec⟩ := exec_row_and_dec s hrow (decodeInput_known_payload _ .g1 p)
  exact ⟨_, hframe, hdec, frame_getElem?_memRead2 _ _ p .voltage rfl⟩

/-- Settles O23: kind 4 selects FRAME.K4, and ctrl_temp is read at its offset. -/
theorem decodeKind4ExtractsItsField : Obligations.DecodeKind4ExtractsItsField := by
  unfold Obligations.DecodeKind4ExtractsItsField
  rintro p s _ rfl
  have hrow := decodeFrame_known 0x04#8 .g4 p rfl
  obtain ⟨hframe, hdec⟩ := exec_row_and_dec s hrow (decodeInput_known_payload _ .g4 p)
  exact ⟨_, hframe, hdec, frame_getElem?_memRead1 _ _ p .ctrlTemp rfl⟩

/-- Settles O24: kind 13 selects FRAME.K13, and motor_temp and throttle are read at their offsets. -/
theorem decodeKind13ExtractsItsFields : Obligations.DecodeKind13ExtractsItsFields := by
  unfold Obligations.DecodeKind13ExtractsItsFields
  rintro p s _ rfl
  have hrow := decodeFrame_known 0x0D#8 .g13 p rfl
  obtain ⟨hframe, hdec⟩ := exec_row_and_dec s hrow (decodeInput_known_payload _ .g13 p)
  exact ⟨_, _, hframe, hdec, frame_getElem?_memRead1 _ _ p .motorTemp rfl, frame_getElem?_memRead2 _ _ p .throttle rfl⟩

/-- R130: Decode of the bytes of a frame of an unknown kind. -/
theorem decodeInput_unknown_payload (L : Layout) (k : Byte) (p : Payload) (hk : groupOf k = none) :
    decodeInput L (0xAA#8 :: k :: p.toList) = .unknown k p := by
  have h := decodeInput_of_unknown_kind L (frameOf 0xAA#8 k p) (frameOf_zero ..) (by rwa [frameOf_one])
  rwa [frameOf_toList, frameOf_one, payloadOf_frameOf] at h

/-- Settles O25: the kind selects row FRAME.UNKNOWN, and the result is the kind and the payload. -/
theorem decodeUnknownKindKeepsPayload : Obligations.DecodeUnknownKindKeepsPayload := by
  unfold Obligations.DecodeUnknownKindKeepsPayload
  intro k p s hk
  rw [← groupOf_eq_none_iff_not_mem] at hk
  have hd := decodeInput_unknown_payload s.config.layout k p hk
  obtain ⟨hframe, hdec⟩ := exec_row_and_dec s (decodeFrame_unknown k p hk) hd
  exact ⟨hframe, hdec, hd, rfl⟩

/-! ### What Decode does not read -/

/-- R123: Decode of 16 bytes with a bad header. -/
theorem decodeInput_of_bad_header (L : Layout) (f : Frame) (h : f[0] ≠ Config.header) :
    decodeInput L f.toList = .errBadHeader := by
  simp [decodeInput, h]

/-- Settles O27: with a bad header neither frame is read further, and with the header each field of the kind reads the
same from both frames. -/
theorem decodeIgnoresUnusedBytes : Obligations.DecodeIgnoresUnusedBytes := by
  unfold Obligations.DecodeIgnoresUnusedBytes
  intro L f g hheader hkind hknown hbytes
  obtain ⟨G, hG⟩ := (knownKind_iff f[1]).mp hknown
  by_cases hf : f[0] = Config.header
  · rw [decodeInput_of_kind L f G hf hG, decodeInput_of_kind L g G (hheader ▸ hf) (hkind ▸ hG)]
    refine ⟨(knownResult_eq_iff _ _ G).mpr fun F hF => ?_, fun _ => statusOf_knownResult _ G⟩
    rw [getField_readBlock, getField_readBlock]
    exact readField_congr L f g F fun j hj hlo hhi => hbytes j hj ⟨F, by rw [hF, hG], hlo, hhi⟩
  · rw [decodeInput_of_bad_header L f hf, decodeInput_of_bad_header L g (hheader ▸ hf)]
    exact ⟨rfl, fun h => absurd h hf⟩

/-! ### Decode after Encode -/

/-- R133: a known kind's frame decodes to the fields it was made from. -/
theorem decodeInput_encodeFrame_kind (L : Layout) (v : ValueBlock) (G : Group) :
    decodeInput L (encodeFrame L G.kind v).toList = knownResult v G := by
  rw [decodeInput_of_kind L _ G (encodeFrame_zero ..) (encodeFrame_one ..), knownResult_eq_iff]
  rintro F rfl
  rw [getField_readBlock, readField_encodeFrame]

/-- Settles O28: each known kind by its group, and an unknown kind by the zeros of its frame. -/
theorem decodeAfterEncodeIsIdentity : Obligations.DecodeAfterEncodeIsIdentity := by
  unfold Obligations.DecodeAfterEncodeIsIdentity
  intro L v
  have hknown := decodeInput_encodeFrame_kind L v
  refine ⟨hknown .g0, hknown .g1, hknown .g4, hknown .g13, fun k hk => ?_⟩
  rw [← groupOf_eq_none_iff_not_mem] at hk
  rw [encodeFrame_unknown L k v hk]
  exact decodeInput_unknown_payload L k (Vector.replicate 14 0x00#8) hk

/-! ### Encode after Decode -/

/-- R11: equal two-byte reads come from equal bytes. -/
theorem getElem_eq_of_memRead2_eq (f g : Frame) (o : Nat) (h : o + 1 < 16) (e : memRead2 f o h = memRead2 g o h)
    (j : Nat) (hj : j < 16) (hlo : o ≤ j) (hhi : j < o + 2) : f[j] = g[j] := by
  obtain rfl | rfl : j = o ∨ j = o + 1 := by omega
  · simpa using congrArg hiByte e
  · simpa using congrArg loByte e

/-- R77: a field that reads the same from two frames stands on the same bytes in both. -/
theorem getElem_eq_of_readField_eq (L : Layout) (f g : Frame) (F : Field) (e : readField L f F = readField L g F)
    (j : Nat) (hj : j < 16) (hlo : L.off F ≤ j) (hhi : j < L.off F + F.bytes) : f[j] = g[j] := by
  cases F with
  | gear | ctrlTemp | motorTemp =>
    obtain rfl := Nat.le_antisymm hlo (Nat.le_of_lt_succ hhi)
    exact e
  | rpm | iq | id | voltage | throttle => exact getElem_eq_of_memRead2_eq f g _ _ e j hj hlo hhi

/-- R134: encoding what a frame of a known kind decodes to keeps the frame's header, kind and used bytes. -/
theorem encodeFrame_getElem_of_decodeInput (L : Layout) (f : Frame) (v : ValueBlock) (G : Group)
    (hheader : f[0] = Config.header) (hkind : f[1] = G.kind) (hd : decodeInput L f.toList = knownResult v G)
    (j : Nat) (hj : j < 16) (hused : Occupied L f[1] j ∨ j < 2) : (encodeFrame L f[1] v)[j] = f[j] := by
  rw [decodeInput_of_kind L f G hheader hkind, knownResult_eq_iff] at hd
  rcases hused with ⟨F, hF, hlo, hhi⟩ | hlt
  · have howner : F.owner = G := by
      rw [hkind] at hF
      simpa using congrArg groupOf hF
    refine getElem_eq_of_readField_eq L _ _ F ?_ j hj hlo hhi
    rw [← hF, readField_encodeFrame, ← hd F howner, getField_readBlock]
  · obtain rfl | rfl : j = 0 ∨ j = 1 := by omega
    · rw [encodeFrame_zero, hheader]
    · rw [encodeFrame_one]

/-- R131: the four forms of a known result, in one. -/
theorem exists_knownResult {d : DecodeResult} {v : ValueBlock}
    (h : d = .known0 v.gear v.rpm v.iq v.id ∨ d = .known1 v.voltage ∨ d = .known4 v.ctrlTemp ∨
      d = .known13 v.motorTemp v.throttle) : ∃ G, d = knownResult v G := by
  rcases h with h | h | h | h
  · exact ⟨.g0, h⟩
  · exact ⟨.g1, h⟩
  · exact ⟨.g4, h⟩
  · exact ⟨.g13, h⟩

/-- Settles O30: the result's group is the frame's kind, the used bytes are those its fields are read from, and the two
frames can differ in the unused bytes alone. -/
theorem encodeAfterDecodeZeroesUnusedBytes : Obligations.EncodeAfterDecodeZeroesUnusedBytes := by
  unfold Obligations.EncodeAfterDecodeZeroesUnusedBytes
  intro L f v hheader
  refine ⟨fun hknown => ?known, fun hunknown => ?unknown⟩
  case known =>
    obtain ⟨G, hd⟩ := exists_knownResult hknown
    have hkind : f[1] = G.kind := by
      rw [← groupOf_eq_some, ← resultGroup_extract L f, ← decodeInput_frame L f hheader, hd, resultGroup_knownResult]
    have hused := encodeFrame_getElem_of_decodeInput L f v G hheader hkind hd
    have hfree := encodeFrame_unoccupied L f[1] v
    refine ⟨hused, hfree, fun h j hj hpayload hunused => ?_, fun hzero => Vector.ext fun j hj => ?_⟩
    · rw [← hfree j hj hpayload hunused, h]
    · by_cases hin : Occupied L f[1] j ∨ j < 2
      · exact hused j hj hin
      · obtain ⟨hunused, hpayload⟩ := not_or.mp hin
        rw [Nat.not_lt] at hpayload
        rw [hfree j hj hpayload hunused, hzero j hj hpayload hunused]
  case unknown =>
    have hnone : groupOf f[1] = none := by simpa [knownKind] using hunknown
    exact ⟨decodeInput_of_unknown_kind L f hheader hnone, encodeFrame_unknown L f[1] v hnone⟩

/-! ### Physical values -/

/-- R12: the integer of an unsigned field. -/
theorem fieldInt_of_unsigned (rpmSigned : Bool) (F : Field) (v : BitVec F.width)
    (h : fieldSigned rpmSigned F = false) : (fieldInt rpmSigned F v : Rat) = (v.toNat : Rat) := by
  simp [fieldInt_eq, h, zext]

/-- R12: the integer of a signed field. -/
theorem fieldInt_of_signed (rpmSigned : Bool) (F : Field) (v : BitVec F.width)
    (h : fieldSigned rpmSigned F = true) : (fieldInt rpmSigned F v : Rat) = (v.toInt : Rat) := by
  simp [fieldInt_eq, h, sext_eq_toInt]

/-- R12: the range of a 16-bit two's-complement integer, over 100. -/
theorem toInt_div_hundred_range (v : Half) :
    -(32768 : Rat) / 100 ≤ (v.toInt : Rat) / 100 ∧ (v.toInt : Rat) / 100 ≤ 32767 / 100 := by
  have hmin : (-32768 : Rat) ≤ (v.toInt : Rat) := by exact_mod_cast v.le_toInt
  have hmax : (v.toInt : Rat) ≤ 32767 := by exact_mod_cast Int.le_of_lt_add_one v.toInt_lt
  constructor <;> gcongr

/-- R12: the range of a 16-bit natural number, over 10. -/
theorem toNat_div_ten_le (v : Half) : (v.toNat : Rat) / 10 ≤ 65535 / 10 := by
  have hmax : (v.toNat : Rat) ≤ 65535 := by exact_mod_cast Nat.le_of_lt_succ v.isLt
  gcongr

/-- R132: the amperes of iq. -/
theorem fieldPhysical_iq (rpmSigned : Bool) (v : Half) :
    fieldPhysical rpmSigned .iq v = (v.toInt : Rat) / 100 :=
  congrArg (· / 100) (fieldInt_of_signed rpmSigned .iq v rfl)

/-- R132: the amperes of id. -/
theorem fieldPhysical_id (rpmSigned : Bool) (v : Half) :
    fieldPhysical rpmSigned .id v = (v.toInt : Rat) / 100 :=
  congrArg (· / 100) (fieldInt_of_signed rpmSigned .id v rfl)

/-- R132: the volts of voltage. -/
theorem fieldPhysical_voltage (rpmSigned : Bool) (v : Half) :
    fieldPhysical rpmSigned .voltage v = (v.toNat : Rat) / 10 :=
  congrArg (· / 10) (fieldInt_of_unsigned rpmSigned .voltage v rfl)

/-- Settles O58: every field is read by its signedness, and voltage and the currents are scaled after it. -/
theorem physicalValuesAreScaledByDivision : Obligations.PhysicalValuesAreScaledByDivision := by
  unfold Obligations.PhysicalValuesAreScaledByDivision
  intro rpmSigned v c
  obtain ⟨hmin, hmax⟩ := toInt_div_hundred_range v
  rw [fieldPhysical_voltage, fieldPhysical_iq, fieldPhysical_id]
  refine ⟨rfl, toNat_div_ten_le v, rfl, rfl, hmin, hmax, hmin, hmax, ?ctrlTemp, ?motorTemp, ?signedRpm, ?unsignedRpm,
    ?throttle, ?gear⟩
  case ctrlTemp => exact fieldInt_of_signed rpmSigned .ctrlTemp c rfl
  case motorTemp => exact fieldInt_of_signed rpmSigned .motorTemp c rfl
  case signedRpm => exact fieldInt_of_signed true .rpm v rfl
  case unsignedRpm => exact fieldInt_of_unsigned false .rpm v rfl
  case throttle => exact fieldInt_of_unsigned rpmSigned .throttle v rfl
  case gear => exact fieldInt_of_unsigned rpmSigned .gear c rfl

end Sys2Proof.Machine

/-! PROOFS of the fold family: a DECF that folds and one that does not (O31, O33, O34), two folds in a row and folds
around a WRCTL (O36, O37), and the register commands RDT, CLR, WRCTL and RDCTL (O38 to O41). -/

namespace Sys2Proof.Machine

/-! ### A DECF of a known kind -/

/-- R5, R71: the known kinds are those that a group has. -/
theorem exists_groupOf_iff_mem (k : Byte) :
    (∃ G, groupOf k = some G) ↔ k ∈ [0x00#8, 0x01#8, 0x04#8, 0x0D#8] := by
  rw [← Option.isSome_iff_exists, ← Option.ne_none_iff_isSome, Ne, groupOf_eq_none_iff_not_mem, not_not]

/-- R151 (b): the result of a group is Known_k. -/
@[simp] theorem isKnown_knownResult (v : ValueBlock) (G : Group) : isKnown (knownResult v G) = true := by
  rw [isKnown_eq_resultGroup, resultGroup_knownResult, Option.isSome_some]

/-- R151, R152: with FOLD_EN = 1, a DECF row of a known input writes the fold of the input's result. -/
theorem exec_decf_folds (i : Instr) (b : List Byte) (s : State) (v : ValueBlock) (G : Group) (hdecf : isDecf i = true)
    (hb : decodeInputOf i = some b) (hen : s.ctrl.foldEn = true)
    (hd : decodeInput s.config.layout b = knownResult v G) :
    exec i s = .next ((s.withTrb (foldResult s.trb (knownResult v G))).withResponse
      (responseOf (knownResult v G) true)) := by
  rw [exec_decf_of_input i b s hdecf hb, hd, decodeAndFold_on s _ hen (isKnown_knownResult v G)]

/-- Settles O31: the input of each fold row is a frame of its kind, and Decode reads that kind's fields from it. -/
theorem decfFoldsAKnownKind : Obligations.DecfFoldsAKnownKind := by
  unfold Obligations.DecfFoldsAKnownKind
  intro p s hen
  have hdec (G : Group) := decodeInput_known_payload s.config.layout G p
  refine ⟨⟨_, _, _, _, hdec .g0, ?k0⟩, ⟨_, hdec .g1, ?k1⟩, ⟨_, hdec .g4, ?k4⟩, ⟨_, _, hdec .g13, ?k13⟩⟩
  case k0 => exact exec_decf_folds (.decfK0 p) _ s _ .g0 rfl rfl hen (hdec .g0)
  case k1 => exact exec_decf_folds (.decfK1 p) _ s _ .g1 rfl rfl hen (hdec .g1)
  case k4 => exact exec_decf_folds (.decfK4 p) _ s _ .g4 rfl rfl hen (hdec .g4)
  case k13 => exact exec_decf_folds (.decfK13 p) _ s _ .g13 rfl rfl hen (hdec .g13)

/-! ### A DECF that does not fold -/

/-- R153, R154: without FOLD_EN or without a known result, a DECF row and DEC of its input answer the same and write
nothing. -/
theorem exec_dec_and_decf_of_no_fold (i : Instr) (b : List Byte) (s : State) (d : DecodeResult)
    (hdecf : isDecf i = true) (hb : decodeInputOf i = some b) (hd : decodeInput s.config.layout b = d)
    (hno : s.ctrl.foldEn = false ∨ isKnown d = false) :
    exec (.dec b) s = .next (s.withResponse (responseOf d false)) ∧
      exec i s = .next (s.withResponse (responseOf d false)) := by
  rw [exec_decf_of_input i b s hdecf hb, hd]
  exact ⟨(exec_row_and_dec s rfl hd).2, hno.elim (decodeAndFold_off s d) (decodeAndFold_unknown s d)⟩

/-- Settles O33: FOLD_EN = 0 is one of the two reasons not to fold. -/
theorem decfWithoutFoldEnIsDec : Obligations.DecfWithoutFoldEnIsDec := by
  unfold Obligations.DecfWithoutFoldEnIsDec
  intro i b s hdecf hb hoff
  exact ⟨_, rfl, exec_dec_and_decf_of_no_fold i b s _ hdecf hb rfl (.inl hoff)⟩

/-- Settles O34: of the four things a decode input can be, only a frame of a known kind has a known result, and that one
the hypothesis excludes. -/
theorem decfOfErrorOrUnknownWritesNothing : Obligations.DecfOfErrorOrUnknownWritesNothing := by
  unfold Obligations.DecfOfErrorOrUnknownWritesNothing
  intro b s hbad
  have hrun (d : DecodeResult) (hd : decodeInput s.config.layout b = d) (hk : isKnown d = false) :=
    exec_dec_and_decf_of_no_fold (.decf b) b s d rfl rfl hd (.inr hk)
  rcases decodeFrame_cases b with ⟨hlen, -⟩ | ⟨h, r, hh, rfl, -⟩ | ⟨k, p, G, hG, rfl⟩ | ⟨k, p, hk, rfl, -⟩
  · obtain ⟨hdec, hdecf⟩ := hrun _ (decodeInput_wrongLength _ b hlen) rfl
    exact ⟨_, rfl, hdec, hdecf, fun _ => rfl, fun h => absurd h hlen, fun h => absurd h hlen⟩
  · obtain ⟨hdec, hdecf⟩ := hrun _ (decodeInput_badHeader _ h r.toList (by simp) hh) rfl
    refine ⟨_, rfl, hdec, hdecf, fun hlen => absurd (by simp) hlen, fun _ _ => rfl, fun _ h0 => ?_⟩
    exact absurd (Option.some.inj h0) hh
  · rcases hbad with hlen | hh | ⟨k', hk', hmem⟩
    · exact absurd (by simp) hlen
    · exact absurd rfl hh
    · cases hk'
      exact absurd ((exists_groupOf_iff_mem k).mp ⟨G, hG⟩) hmem
  · obtain ⟨hdec, hdecf⟩ := hrun _ (decodeInput_unknown_payload _ k p hk) rfl
    exact ⟨_, rfl, hdec, hdecf, fun hlen => absurd (by simp) hlen, fun _ h0 => absurd rfl h0, fun _ _ => rfl⟩

/-! ### Folds of encoded frames, one after another and around a WRCTL -/

/-- R133, R151: with FOLD_EN = 1, a DECF of a frame that Encode made folds the values it was made from. -/
theorem exec_decf_encodeFrame (s : State) (v : ValueBlock) (G : Group) (hen : s.ctrl.foldEn = true) :
    exec (.decf (encodeFrame s.config.layout G.kind v).toList) s =
      .next ((s.withTrb (foldResult s.trb (knownResult v G))).withResponse (responseOf (knownResult v G) true)) :=
  exec_decf_folds _ _ s v G rfl rfl hen (decodeInput_encodeFrame_kind s.config.layout v G)

/-- Settles O36: the first fold keeps LAYOUT and FOLD_EN, so the second is a fold too, and neither writes the other's
group, G4 or G13. -/
theorem streamingFidelity : Obligations.StreamingFidelity := by
  unfold Obligations.StreamingFidelity
  intro s m v w hen hvalid hm hv hw
  refine ⟨_, _, exec_decf_encodeFrame s v .g1 hen, exec_decf_encodeFrame _ w .g0 hen, congrArg some hv,
    congrArg some hw, hm, hvalid, rfl, rfl, rfl, rfl, rfl, ?_⟩
  have h900 : (900 : Half).toNat = 900 := rfl
  rw [fieldPhysical_voltage, h900]
  norm_num

/-- R151: a DECF of a known input folds exactly if FOLD_EN is 1, and its response says so. -/
theorem exec_decf_of_known (s : State) (b : List Byte) (d : DecodeResult) (hd : decodeInput s.config.layout b = d)
    (hk : isKnown d = true) : ∃ t r, exec (.decf b) s = .next t ∧ t.responses = s.responses ++ [r] ∧
      r.folded = s.ctrl.foldEn ∧ t.trb = if s.ctrl.foldEn then foldResult s.trb d else s.trb := by
  rw [exec_decf_of_input (.decf b) b s rfl rfl, hd]
  cases hen : s.ctrl.foldEn with
  | false => exact ⟨_, _, decodeAndFold_off s d hen, rfl, rfl, rfl⟩
  | true => exact ⟨_, _, decodeAndFold_on s d hen hk, rfl, rfl, rfl⟩

/-- R160: WRCTL writes CTRL and nothing else. -/
theorem exec_wrctl (value : Byte) (s : State) :
    exec (.wrctl value) s = .next ((s.withCtrl (Ctrl.ofByte value)).withResponse (okResponse .empty)) := rfl

/-- Settles O37: before the WRCTL the DECF sees FOLD_EN as it was, after it the bit written, and LAYOUT is the same. -/
theorem wrctlOrdersFolds : Obligations.WrctlOrdersFolds := by
  unfold Obligations.WrctlOrdersFolds
  rintro s value v k _ hmem rfl
  obtain ⟨G, hG⟩ := (exists_groupOf_iff_mem k).mpr hmem
  obtain rfl := (groupOf_eq_some k G).mp hG
  have hknown : isKnown (decodeInput s.config.layout (encodeFrame s.config.layout G.kind v).toList) = true := by
    rw [decodeInput_encodeFrame_kind, isKnown_knownResult]
  constructor
  · obtain ⟨t, r, ht, hresp, hfolded, htrb⟩ := exec_decf_of_known s _ _ rfl hknown
    exact ⟨t, _, r, ht, hresp, exec_wrctl value t, hfolded, rfl, htrb⟩
  · obtain ⟨u, r, hu, hresp, hfolded, htrb⟩ :=
      exec_decf_of_known ((s.withCtrl (Ctrl.ofByte value)).withResponse (okResponse .empty)) _ _ rfl hknown
    exact ⟨_, u, r, exec_wrctl value s, hu, hresp, hfolded, rfl, htrb⟩

/-! ### The register commands -/

/-- R156: a field of a valid group is snapshot as the bank holds it. -/
theorem bankValue_of_valid (t : TRB) (F : Field) (h : groupValid t F.owner = true) : bankValue t F = bankField t F :=
  if_pos h

/-- R23, R156: a field of an invalid group has no value. -/
theorem bankValue_of_invalid (t : TRB) (F : Field) (h : groupValid t F.owner = false) : bankValue t F = none :=
  if_neg (by simp [h])

/-- Settles O38: the mask holds the flags, and each field of the snapshot is the bank's value under its owner's flag. -/
theorem rdtReturnsTheSnapshot : Obligations.RdtReturnsTheSnapshot := by
  unfold Obligations.RdtReturnsTheSnapshot
  intro s
  obtain ⟨hbit0, hbit1, hbit2, hbit3, hhigh⟩ := validMask_bits s.trb
  have hvalid := bankValue_of_valid s.trb
  have hinvalid := bankValue_of_invalid s.trb
  refine ⟨validMask s.trb, snapshot s.trb, rfl, hbit0, hbit1, hbit2, hbit3, hhigh, fun h => ?valid0, fun h => ?invalid0,
    hvalid .voltage, hinvalid .voltage, hvalid .ctrlTemp, hinvalid .ctrlTemp, fun h => ?valid13, fun h => ?invalid13⟩
  case valid0 => exact ⟨hvalid .gear h, hvalid .rpm h, hvalid .iq h, hvalid .id h⟩
  case invalid0 => exact ⟨hinvalid .gear h, hinvalid .rpm h, hinvalid .iq h, hinvalid .id h⟩
  case valid13 => exact ⟨hvalid .motorTemp h, hvalid .throttle h⟩
  case invalid13 => exact ⟨hinvalid .motorTemp h, hinvalid .throttle h⟩

/-- R157, R158: CLR writes the bank and nothing else. -/
theorem exec_clr (s : State) :
    exec .clr s = .next ((s.withTrb TRB.reset).withResponse (okResponse .empty)) := rfl

/-- Settles O39: CLR writes the reset bank, and a bank is no part of CTRL. -/
theorem clrRestoresTheResetBank : Obligations.ClrRestoresTheResetBank := by
  unfold Obligations.ClrRestoresTheResetBank
  exact fun s => ⟨exec_clr s, withTrb_ctrl s TRB.reset, rfl⟩

/-- R30, R32: CTRL reads back as the byte written, with bits 7:1 zero. -/
theorem Ctrl.toByte_ofByte (v : Byte) : (Ctrl.ofByte v).toByte = v &&& 0x01#8 := by
  rw [BitVec.and_one_eq_setWidth_ofBool_getLsbD, Ctrl.toByte_eq, Ctrl.ofByte]
  cases v.getLsbD 0 <;> rfl

/-- Settles O40: WRCTL stores bit 0, and CTRL reads back as that bit. -/
theorem wrctlWritesFoldEn : Obligations.WrctlWritesFoldEn := by
  unfold Obligations.WrctlWritesFoldEn
  exact fun v s => ⟨rfl, exec_wrctl v s, Ctrl.toByte_ofByte v⟩

/-- R162: RDCTL answers CTRL as a byte, which is 0x01 or 0x00. -/
theorem exec_rdctl (s : State) :
    exec .rdctl s = .next (s.withResponse (okResponse (.ctrl (if s.ctrl.foldEn then 0x01#8 else 0x00#8)))) := by
  rw [← Ctrl.toByte_eq]
  rfl

/-- Settles O41: after reset, FOLD_EN is 0. -/
theorem rdctlReturnsCtrl : Obligations.RdctlReturnsCtrl := by
  unfold Obligations.RdctlReturnsCtrl
  exact ⟨exec_rdctl, exec_rdctl State.reset, rfl⟩

end Sys2Proof.Machine

/-! PROOFS of the exceptions family: when a step stops (O8), a host that presents whole commands (O9), an illegal opcode
(O42), and which instructions answer which status (O43). -/

namespace Sys2Proof.Machine

/-! ### When a step stops -/

section
variable {s : State} {bytes : List Byte} {es : List HostEvent}

/-- Log 7: with nothing presented there is no command to take. -/
theorem step_idle (h : s.input = []) : step s = .refused .noCommand := by simp [step, fetch, h]

/-- R89: bytes that do not begin with a whole command. -/
theorem step_incomplete {e : Incomplete} (h : s.input = .present bytes :: es) (hd : decodeCommand bytes = .error e) :
    step s = .refused .incompleteCommand := by simp [step, fetch, h, hd]

/-- R36, R205: bytes that go on after a whole command. -/
theorem step_overlap {i : Instr} {rest : List Byte} (h : s.input = .present bytes :: es)
    (hd : decodeCommand bytes = .ok (i, rest)) (hrest : rest ≠ []) : step s = .refused .commandOverlap := by
  obtain ⟨c, cs, rfl⟩ := List.exists_cons_of_ne_nil hrest
  simp [step, fetch, h, hd]

end

/-- R185, R187: each refusal of a step, with what the host has presented; an instruction that runs is never refused. -/
theorem step_refused_cases (s : State) (r : Refusal) (h : step s = .refused r) :
    (r = .noCommand ∧ s.input = []) ∨
    (r = .incompleteCommand ∧ ∃ bytes es e, s.input = .present bytes :: es ∧ decodeCommand bytes = .error e) ∨
    (r = .commandOverlap ∧ ∃ bytes es i rest, s.input = .present bytes :: es ∧
      decodeCommand bytes = .ok (i, rest) ∧ rest ≠ []) := by
  rcases step_cases s with ⟨hin, hs⟩ | ⟨_, -, hs⟩ | ⟨bytes, es, e, hin, hd, hs⟩ | ⟨bytes, es, i, c, rest, hin, hd, hs⟩ |
    ⟨_, es, i, -, -, hs⟩ <;> rw [hs] at h
  · cases h
    exact .inl ⟨rfl, hin⟩
  · cases h
  · cases h
    exact .inr (.inl ⟨rfl, bytes, es, e, hin, hd⟩)
  · cases h
    exact .inr (.inr ⟨rfl, bytes, es, i, c :: rest, hin, hd, List.cons_ne_nil c rest⟩)
  · obtain ⟨t, ht⟩ := exec_total i (s.withInput es)
    rw [ht] at h
    cases h

/-- R185: no step faults. -/
theorem step_ne_fault (s : State) (f : Fault) : step s ≠ .fault f := by
  intro h
  rcases step_cases s with ⟨-, hs⟩ | ⟨_, -, hs⟩ | ⟨_, _, _, -, -, hs⟩ | ⟨_, _, _, _, _, -, -, hs⟩ |
    ⟨_, es, i, -, -, hs⟩ <;> rw [hs] at h
  · cases h
  · cases h
  · cases h
  · cases h
  · obtain ⟨t, ht⟩ := exec_total i (s.withInput es)
    rw [ht] at h
    cases h

/-- Settles O8: each refusal names what was presented (`step_refused_cases`), and that is refused by its name. -/
theorem stepStopsOnlyWithoutAWholeCommand : Obligations.StepStopsOnlyWithoutAWholeCommand := by
  unfold Obligations.StepStopsOnlyWithoutAWholeCommand
  intro s
  refine ⟨⟨fun h => ?_, step_idle⟩, ⟨fun h => ?_, ?_⟩, ⟨fun h => ?_, ?_⟩, fun r h => ?_, step_ne_fault s⟩
  · simpa using step_refused_cases s _ h
  · simpa using step_refused_cases s _ h
  · rintro ⟨bytes, es, e, hin, hd⟩
    exact step_incomplete hin hd
  · simpa using step_refused_cases s _ h
  · rintro ⟨bytes, es, i, rest, hin, hd, hrest⟩
    exact step_overlap hin hd hrest
  · exact (step_refused_cases s r h).imp And.left (.imp And.left And.left)

/-! ### A host that presents whole commands -/

/-- R36: a duty kept for all moves to come is kept for those after the first. -/
theorem OneCommandEach.tail {e : HostEvent} {es : List HostEvent} (h : OneCommandEach (e :: es)) : OneCommandEach es :=
  fun bytes hmem => h bytes (List.mem_cons_of_mem e hmem)

theorem HostKeepsDuty.tail {e : HostEvent} {es : List HostEvent} (h : HostKeepsDuty (e :: es)) : HostKeepsDuty es :=
  fun bytes hmem => h bytes (List.mem_cons_of_mem e hmem)

/-- R34, R36: a step that goes on takes one host event and leaves the others. -/
theorem step_takes_one_event (s t : State) (h : step s = .next t) : ∃ e, s.input = e :: t.input := by
  rcases step_next_cases s t h with ⟨es, hin, rfl⟩ | ⟨bytes, es, i, hin, -, hexec⟩
  · exact ⟨.reset, hin⟩
  · obtain ⟨hinput, -⟩ := exec_keeps_input_config i (s.withInput es) t hexec
    exact ⟨.present bytes, by rw [hinput, hin, withInput_input]⟩

section
variable {s : State}

/-- R36: of a sequence that is one whole command, the decoder reads that command and nothing is left. -/
theorem OneCommandEach.decodeCommand_head {bytes : List Byte} {es : List HostEvent} (h : OneCommandEach s.input)
    (hin : s.input = .present bytes :: es) : ∃ i, decodeCommand bytes = .ok (i, []) :=
  h bytes (hin ▸ List.mem_cons_self)

/-- R187: a step is stuck on no whole command: each refusal is of some other input. -/
theorem OneCommandEach.step_goes_on (h : OneCommandEach s.input) (hne : s.input ≠ []) : ∃ t, step s = .next t := by
  cases hs : step s with
  | next t => exact ⟨t, rfl⟩
  | fault f => exact absurd hs (step_ne_fault s f)
  | refused r =>
    rcases step_refused_cases s r hs with ⟨-, hin⟩ | ⟨-, _, _, e, hin, hd⟩ | ⟨-, _, _, i, rest, hin, hd, hrest⟩
    · exact absurd hin hne
    · obtain ⟨i, hd'⟩ := h.decodeCommand_head hin
      cases hd.symm.trans hd'
    · obtain ⟨i', hd'⟩ := h.decodeCommand_head hin
      cases hd.symm.trans hd'
      exact absurd rfl hrest

/-- R184: under a host that keeps to legal opcodes, no response of a step is ERR_ILLEGAL_CMD; a reset has none. -/
theorem HostKeepsDuty.step_status_ne_illegal {t : State} {r : Response} (h : HostKeepsDuty s.input)
    (hs : step s = .next t) (hresp : t.responses = s.responses ++ [r]) : r.status ≠ .errIllegalCmd := by
  rcases step_next_cases s t hs with ⟨es, -, rfl⟩ | ⟨bytes, es, i, hin, hd, hexec⟩
  · have hnone : (hostReset (s.withInput es)).responses = s.responses := rfl
    simp [hnone] at hresp
  · obtain ⟨i', hd', hlegal⟩ := h bytes (hin ▸ List.mem_cons_self)
    cases hd.symm.trans hd'
    obtain ⟨t', r', ht', hr', hstatus⟩ := exec_legal_status i (s.withInput es) hlegal
    obtain rfl : t = t' := by simpa [hexec] using ht'
    obtain rfl : r = r' := by simpa [hresp] using hr'
    exact hstatus

end

/-- Settles O9: the step goes on and takes one event, so both duties pass on to the events that are left. -/
theorem wholeCommandsAreNeverStuck : Obligations.WholeCommandsAreNeverStuck := by
  unfold Obligations.WholeCommandsAreNeverStuck
  intro s hwhole hne
  obtain ⟨t, hs⟩ := hwhole.step_goes_on hne
  obtain ⟨e, hin⟩ := step_takes_one_event s t hs
  refine ⟨t, hs, (hin ▸ hwhole).tail, fun hduty => ⟨(hin ▸ hduty).tail, fun r hresp => ?_⟩⟩
  exact hduty.step_status_ne_illegal hs hresp

/-! ### An illegal opcode -/

/-- R184: the illegal opcodes, 0x00 and 0x08 to 0xFF. -/
theorem illegalOpcode_iff_range (op : Byte) : illegalOpcode op = true ↔ op = 0x00#8 ∨ 0x08#8 ≤ op := by
  simp [illegalOpcode, BitVec.le_def]

/-- R184: ILLEGAL answers an error and changes nothing else. -/
theorem exec_illegal (op : Byte) (s : State) :
    exec (.illegal op) s = .next (s.withResponse ⟨.errIllegalCmd, false, .empty⟩) := rfl

/-- Settles O42: the opcode byte is a whole command, so a step runs it, and the step after it runs the next command. -/
theorem illegalOpcodeIsAnsweredAlone : Obligations.IllegalOpcodeIsAnsweredAlone := by
  unfold Obligations.IllegalOpcodeIsAnsweredAlone
  intro op rest es s hop
  have hread (rest : List Byte) : decodeCommand (op :: rest) = .ok (.illegal op, rest) :=
    decodeCommand_illegal op rest ((illegalOpcode_iff_range op).mpr hop)
  refine ⟨hread rest, exec_illegal op s, fun hin => ⟨?_, fun bytes es' j hes hd => ?_⟩⟩
  · rw [step_command s [op] es (.illegal op) hin (hread []), exec_illegal]
  · exact step_command _ bytes es' j hes hd

/-! ### Which instructions answer which status -/

/-- R181: a result of a known kind has status OK. -/
theorem statusOf_of_resultGroup (d : DecodeResult) (G : Group) (h : resultGroup d = some G) : statusOf d = .ok := by
  cases d with
  | known0 | known1 | known4 | known13 => rfl
  | _ => cases h

/-- R121, R181: the status of a decode, from the bytes alone: their length, then their header, then their kind. -/
theorem statusOf_decodeInput_iff (L : Layout) (b : List Byte) :
    (statusOf (decodeInput L b) = .errWrongLength ↔ b.length ≠ 16) ∧
    (statusOf (decodeInput L b) = .errBadHeader ↔ b.length = 16 ∧ b[0]? ≠ some 0xAA#8) ∧
    (statusOf (decodeInput L b) = .okUnknownKind ↔ b.length = 16 ∧ b[0]? = some 0xAA#8 ∧ knownGroup b = none) := by
  rcases decodeFrame_cases b with ⟨hlen, -⟩ | ⟨hd, r, hbad, rfl, -⟩ | ⟨k, p, G, hG, rfl⟩ | ⟨k, p, hk, rfl, -⟩
  · simp [decodeInput_wrongLength L b hlen, statusOf, hlen]
  · simp [decodeInput_badHeader L hd r.toList (by simp) hbad, statusOf, hbad]
  · have hgroup := resultGroup_decodeInput L (0xAA#8 :: k :: p.toList)
    rw [knownGroup_payload, hG] at hgroup
    simp [statusOf_of_resultGroup _ G hgroup, knownGroup_payload, hG]
  · rw [decodeInput_payload, extract_unknown _ _ (by rwa [frameOf_one])]
    simp [statusOf, knownGroup_payload, hk]

section
variable {s : State} {i : Instr} {r : Response} (ha : Answers s i r)
include ha

/-- R184: ILLEGAL and no other row answers ERR_ILLEGAL_CMD. -/
theorem Answers.status_eq_illegal_iff : r.status = .errIllegalCmd ↔ ∃ op, i = .illegal op := by
  cases ha with
  | enc _ _ h => exact iff_of_false nofun (by rintro ⟨op, rfl⟩; cases h)
  | decode _ _ _ h => exact iff_of_false (statusOf_ne_illegal _) (by rintro ⟨op, rfl⟩; cases h)
  | rdt | clr | wrctl | rdctl => exact iff_of_false nofun nofun
  | illegal op => exact iff_of_true rfl ⟨op, rfl⟩

/-- R181, R183: a status other than OK and ERR_ILLEGAL_CMD is answered exactly by the rows whose input decodes to it. -/
theorem Answers.status_eq_iff (e : Status) (hok : e ≠ .ok) (hill : e ≠ .errIllegalCmd) :
    r.status = e ↔ ∃ b, decodeInputOf i = some b ∧ statusOf (decodeInput s.config.layout b) = e := by
  constructor
  · rintro rfl
    obtain ⟨b, folded, hb, rfl⟩ := ha.decode_of_status hok hill
    exact ⟨b, hb, rfl⟩
  · rintro ⟨b, hb, hstatus⟩
    obtain ⟨folded, rfl⟩ := ha.of_decodeInput hb
    exact hstatus

end

/-- Settles O43: a response is an answer of its row, and the status of a decoded input depends on its bytes alone. -/
theorem statusesComeFromTheirRows : Obligations.StatusesComeFromTheirRows := by
  unfold Obligations.StatusesComeFromTheirRows
  intro i s t r hwf hexec hresp
  have ha : Answers s i r := answers_of_exec hwf hexec hresp
  have hstatus := statusOf_decodeInput_iff s.config.layout
  refine ⟨ha.status_eq_illegal_iff, ?_, ?_, ?_, rfl⟩
  · simp only [ha.status_eq_iff .errWrongLength nofun nofun, hstatus]
  · simp only [ha.status_eq_iff .errBadHeader nofun nofun, hstatus]
  · simp only [ha.status_eq_iff .okUnknownKind nofun nofun, hstatus]

end Sys2Proof.Machine

/-! PROOFS of the reset and hazards family: what a reset event restores (O48), and a frame that two sides with different
LAYOUTs exchange (O29). -/

namespace Sys2Proof.Machine

/-! ### The reset event -/

/-- R189: a step on a reset event takes the event and restores the reset values. -/
theorem step_reset (s : State) (es : List HostEvent) (h : s.input = .reset :: es) :
    step s = .next (hostReset (s.withInput es)) := by simp [step, fetch, h]

section
variable (s : State)

@[simp] theorem hostReset_trb : (hostReset s).trb = TRB.reset := rfl
@[simp] theorem hostReset_ctrl : (hostReset s).ctrl = Ctrl.reset := rfl
@[simp] theorem hostReset_config : (hostReset s).config = s.config := rfl
@[simp] theorem hostReset_input : (hostReset s).input = s.input := rfl
@[simp] theorem hostReset_responses : (hostReset s).responses = s.responses := rfl

end

/-- R33: at reset the byte of CTRL is zero. -/
theorem Ctrl.reset_toByte : Ctrl.reset.toByte = 0x00#8 := by decide

/-- Settles O48: the step is the reset, which writes TRB and CTRL alone, after the event is taken. -/
theorem resetEventRestoresTrbAndCtrl : Obligations.ResetEventRestoresTrbAndCtrl := by
  unfold Obligations.ResetEventRestoresTrbAndCtrl
  intro s es hin
  exact ⟨hostReset (s.withInput es), step_reset s es hin, hostReset_trb _, Ctrl.reset_toByte, hostReset_config _,
    hostReset_responses _, hostReset_input _⟩

/-! ### Two sides with different LAYOUTs -/

/-- R209: a LAYOUT decodes a frame of a known kind that another encoded: the header and the kind byte lie outside every
LAYOUT, so the result is of that kind, and holds whatever the decoder's offsets read. -/
theorem decodeInput_encodeFrame_of_other_layout (L L' : Layout) (G : Group) (v : ValueBlock) :
    decodeInput L' (encodeFrame L G.kind v).toList = knownResult (readBlock L' (encodeFrame L G.kind v)) G :=
  decodeInput_of_kind L' _ G (encodeFrame_zero ..) (encodeFrame_one ..)

/-- Settles O29: the result is one of a known kind, whatever the decoder's LAYOUT reads, and so its status is OK. -/
theorem layoutDisagreementIsNotDetected : Obligations.LayoutDisagreementIsNotDetected := by
  unfold Obligations.LayoutDisagreementIsNotDetected
  intro L L' k v hmem
  obtain ⟨G, hG⟩ := (exists_groupOf_iff_mem k).mpr hmem
  obtain rfl := (groupOf_eq_some k G).mp hG
  rw [decodeInput_encodeFrame_of_other_layout, statusOf_knownResult]

end Sys2Proof.Machine
